-- ==== Sys2Proof/Word.lean ====
section
/-! DEFINITION. The word types of chip8_core (spec/00_scope.md R5, R6: every value is unsigned, bit 0 is the least
significant bit). -/

namespace Sys2Proof

/-- A 4-bit opcode field: a register number X or Y, a height N, or bits an instruction ignores (30 R61, R64). -/
abbrev Nibble := BitVec 4

/-- An 8-bit value: a general register, a timer, a memory byte, an immediate NN. -/
abbrev Byte := BitVec 8

/-- The 12-bit immediate NNN (30 R64). -/
abbrev Addr12 := BitVec 12

/-- A 16-bit value: an opcode, I, PC, a call-stack entry, the keypad latch. -/
abbrev Word := BitVec 16

end Sys2Proof
end

