-- ==== Sys2Proof/Syntax.lean ====
section
/-! DEFINITION. The instruction set as data: the tag of each row of the opcode map, the decoder's eight-field record,
and the instruction with its operands (spec/30_encoding.md R63, R65, R76). -/

namespace Sys2Proof

/-- The instruction tags of 30 R65, one constructor per row, in the order of the opcode map. -/
inductive Tag where
  | sys | cls | ret | jp | call | seImm | sneImm | seReg | ldImm | addImm | ldReg | or | and | xor
  | addReg | sub | shr | subn | shl | sneReg | ldI | jpV0 | rnd | drw | skp | sknp | ldVxDt | ldVxK
  | ldDtVx | ldStVx | addIVx | ldFVx | ldBVx | ldMemVx | ldVxMem
  deriving DecidableEq, Repr

/-- The decoded instruction of 30 R63, eight fields. When `valid` is false the consumer must not use `op`. -/
structure Decoded where
  valid : Bool
  op : Tag
  x : Nibble
  y : Nibble
  n : Nibble
  nn : Byte
  nnn : Addr12
  raw : Word
  deriving DecidableEq, Repr

/-- One constructor per row of spec/opcode_table.json, with its operands. The bits an instruction ignores (30 R72) are
kept as its last operand, so that no bit of an opcode is lost: FAULT_OPCODE records the fetched opcode whole (log 10). -/
inductive Instr where
  /-- SYS, 0_00; `ign` = bits 11:8. -/
  | sys (ign : Nibble)
  /-- CLS, 0_E0; `ign` = bits 11:8. -/
  | cls (ign : Nibble)
  /-- RET, 0_EE; `ign` = bits 11:8. -/
  | ret (ign : Nibble)
  /-- JP NNN, 1NNN. -/
  | jp (nnn : Addr12)
  /-- CALL NNN, 2NNN. -/
  | call (nnn : Addr12)
  /-- SE Vx, NN, 3XNN. -/
  | seImm (x : Nibble) (nn : Byte)
  /-- SNE Vx, NN, 4XNN. -/
  | sneImm (x : Nibble) (nn : Byte)
  /-- SE Vx, Vy, 5XY_; `ign` = bits 3:0. -/
  | seReg (x y ign : Nibble)
  /-- LD Vx, NN, 6XNN. -/
  | ldImm (x : Nibble) (nn : Byte)
  /-- ADD Vx, NN, 7XNN. -/
  | addImm (x : Nibble) (nn : Byte)
  /-- LD Vx, Vy, 8XY0. -/
  | ldReg (x y : Nibble)
  /-- OR Vx, Vy, 8XY1. -/
  | or (x y : Nibble)
  /-- AND Vx, Vy, 8XY2. -/
  | and (x y : Nibble)
  /-- XOR Vx, Vy, 8XY3. -/
  | xor (x y : Nibble)
  /-- ADD Vx, Vy, 8XY4. -/
  | addReg (x y : Nibble)
  /-- SUB Vx, Vy, 8XY5. -/
  | sub (x y : Nibble)
  /-- SHR Vx, Vy, 8XY6. -/
  | shr (x y : Nibble)
  /-- SUBN Vx, Vy, 8XY7. -/
  | subn (x y : Nibble)
  /-- SHL Vx, Vy, 8XYE. -/
  | shl (x y : Nibble)
  /-- SNE Vx, Vy, 9XY_; `ign` = bits 3:0. -/
  | sneReg (x y ign : Nibble)
  /-- LD I, NNN, ANNN. -/
  | ldI (nnn : Addr12)
  /-- JP V0, NNN, BNNN. -/
  | jpV0 (nnn : Addr12)
  /-- RND Vx, NN, CXNN. -/
  | rnd (x : Nibble) (nn : Byte)
  /-- DRW Vx, Vy, N, DXYN. -/
  | drw (x y n : Nibble)
  /-- SKP Vx, EX9E. -/
  | skp (x : Nibble)
  /-- SKNP Vx, EXA1. -/
  | sknp (x : Nibble)
  /-- LD Vx, DT, FX07. -/
  | ldVxDt (x : Nibble)
  /-- LD Vx, K, FX0A. -/
  | ldVxK (x : Nibble)
  /-- LD DT, Vx, FX15. -/
  | ldDtVx (x : Nibble)
  /-- LD ST, Vx, FX18. -/
  | ldStVx (x : Nibble)
  /-- ADD I, Vx, FX1E. -/
  | addIVx (x : Nibble)
  /-- LD F, Vx, FX29. -/
  | ldFVx (x : Nibble)
  /-- LD B, Vx, FX33. -/
  | ldBVx (x : Nibble)
  /-- LD [I], Vx, FX55. -/
  | ldMemVx (x : Nibble)
  /-- LD Vx, [I], FX65. -/
  | ldVxMem (x : Nibble)
  deriving DecidableEq, Repr

end Sys2Proof
end

