-- ==== Sys2Proof/WellFormed.lean ====
section
/-! DEFINITION. Which terms of the syntax stand for something the decoder can produce. -/

namespace Sys2Proof

/-- The decoded record of 30 R63 is well formed when its five operand fields are the fixed bits of `raw` that R63 names
(whatever the family), and `op` is tag 0 (SYS) when `valid` is false. -/
def Decoded.wf (d : Decoded) : Bool :=
  d.x == d.raw.extractLsb' 8 4 &&
  d.y == d.raw.extractLsb' 4 4 &&
  d.n == d.raw.extractLsb' 0 4 &&
  d.nn == d.raw.extractLsb' 0 8 &&
  d.nnn == d.raw.extractLsb' 0 12 &&
  (d.valid || d.op == Tag.sys)

/-- Every term of Instr is well formed: each operand has exactly the width of its opcode field, and 30 R64 makes every
value of a field legal ("every value is a legal register"). No check remains. -/
def Instr.wf : Instr → Bool := fun _ => true

end Sys2Proof
end

