-- ==== Sys2Proof/Decode.lean ====
section
/-! DEFINITION. The decoder chip8_decoder (spec/30_encoding.md R60 to R77) and the encoder, written from the same
opcode map. -/

namespace Sys2Proof

/-! ### Fields of an opcode (30 R61, R64; 90_conflicts.md C1: LSB-0) -/

/-- The family, bits 15:12. -/
def fieldF (op : Word) : Nibble := op.extractLsb' 12 4
/-- X, bits 11:8. -/
def fieldX (op : Word) : Nibble := op.extractLsb' 8 4
/-- Y, bits 7:4. -/
def fieldY (op : Word) : Nibble := op.extractLsb' 4 4
/-- N, bits 3:0. -/
def fieldN (op : Word) : Nibble := op.extractLsb' 0 4
/-- NN, bits 7:0. -/
def fieldNN (op : Word) : Byte := op.extractLsb' 0 8
/-- NNN, bits 11:0. -/
def fieldNNN (op : Word) : Addr12 := op.extractLsb' 0 12

/-! ### Dispatch (30 R66 to R71) -/

/-- Family 0x0: the sub-code is the low byte, bits 11:8 are ignored (R67). -/
def decodeFamily0 (nn : Byte) : Option Tag :=
  match nn with
  | 0x00#8 => some .sys
  | 0xE0#8 => some .cls
  | 0xEE#8 => some .ret
  | _ => none

/-- Family 0x8: the sub-code is the low nibble (R68). -/
def decodeFamily8 (n : Nibble) : Option Tag :=
  match n with
  | 0x0#4 => some .ldReg
  | 0x1#4 => some .or
  | 0x2#4 => some .and
  | 0x3#4 => some .xor
  | 0x4#4 => some .addReg
  | 0x5#4 => some .sub
  | 0x6#4 => some .shr
  | 0x7#4 => some .subn
  | 0xE#4 => some .shl
  | _ => none

/-- Family 0xE: the sub-code is the low byte (R69). -/
def decodeFamilyE (nn : Byte) : Option Tag :=
  match nn with
  | 0x9E#8 => some .skp
  | 0xA1#8 => some .sknp
  | _ => none

/-- Family 0xF: the sub-code is the low byte (R70). -/
def decodeFamilyF (nn : Byte) : Option Tag :=
  match nn with
  | 0x07#8 => some .ldVxDt
  | 0x0A#8 => some .ldVxK
  | 0x15#8 => some .ldDtVx
  | 0x18#8 => some .ldStVx
  | 0x1E#8 => some .addIVx
  | 0x29#8 => some .ldFVx
  | 0x33#8 => some .ldBVx
  | 0x55#8 => some .ldMemVx
  | 0x65#8 => some .ldVxMem
  | _ => none

/-- The first level of dispatch, on the family nibble (R66); `none` is an unknown opcode (R73). All sixteen families are
known; families 0x5 and 0x9 do not look at the low nibble (R71). -/
def decodeTag (op : Word) : Option Tag :=
  match fieldF op with
  | 0x0#4 => decodeFamily0 (fieldNN op)
  | 0x1#4 => some .jp
  | 0x2#4 => some .call
  | 0x3#4 => some .seImm
  | 0x4#4 => some .sneImm
  | 0x5#4 => some .seReg
  | 0x6#4 => some .ldImm
  | 0x7#4 => some .addImm
  | 0x8#4 => decodeFamily8 (fieldN op)
  | 0x9#4 => some .sneReg
  | 0xA#4 => some .ldI
  | 0xB#4 => some .jpV0
  | 0xC#4 => some .rnd
  | 0xD#4 => some .drw
  | 0xE#4 => decodeFamilyE (fieldNN op)
  | _ => decodeFamilyF (fieldNN op)

/-- chip8_decoder: the total function from an opcode to the eight-field record (R62, R63). -/
def decodeRecord (op : Word) : Decoded where
  valid := (decodeTag op).isSome
  op := (decodeTag op).getD .sys
  x := fieldX op
  y := fieldY op
  n := fieldN op
  nn := fieldNN op
  nnn := fieldNNN op
  raw := op

/-- The instruction a record stands for: the tag with the operands that its layout in the opcode map gives it, ignored
bits kept (R72). Used only when `valid` is true. -/
def Decoded.instr (d : Decoded) : Instr :=
  match d.op with
  | .sys => .sys d.x
  | .cls => .cls d.x
  | .ret => .ret d.x
  | .jp => .jp d.nnn
  | .call => .call d.nnn
  | .seImm => .seImm d.x d.nn
  | .sneImm => .sneImm d.x d.nn
  | .seReg => .seReg d.x d.y d.n
  | .ldImm => .ldImm d.x d.nn
  | .addImm => .addImm d.x d.nn
  | .ldReg => .ldReg d.x d.y
  | .or => .or d.x d.y
  | .and => .and d.x d.y
  | .xor => .xor d.x d.y
  | .addReg => .addReg d.x d.y
  | .sub => .sub d.x d.y
  | .shr => .shr d.x d.y
  | .subn => .subn d.x d.y
  | .shl => .shl d.x d.y
  | .sneReg => .sneReg d.x d.y d.n
  | .ldI => .ldI d.nnn
  | .jpV0 => .jpV0 d.nnn
  | .rnd => .rnd d.x d.nn
  | .drw => .drw d.x d.y d.n
  | .skp => .skp d.x
  | .sknp => .sknp d.x
  | .ldVxDt => .ldVxDt d.x
  | .ldVxK => .ldVxK d.x
  | .ldDtVx => .ldDtVx d.x
  | .ldStVx => .ldStVx d.x
  | .addIVx => .addIVx d.x
  | .ldFVx => .ldFVx d.x
  | .ldBVx => .ldBVx d.x
  | .ldMemVx => .ldMemVx d.x
  | .ldVxMem => .ldVxMem d.x

/-- The instruction of an opcode, or `none` for an unknown opcode (R73). -/
def decode (op : Word) : Option Instr :=
  if (decodeRecord op).valid then some (decodeRecord op).instr else none

/-- Why a list of bytes is no instruction. -/
inductive DecodeError where
  /-- Fewer than the two bytes of an opcode are left (30 R60). -/
  | truncated (bytesLeft : Nat)
  /-- The opcode matches no row of the opcode map (30 R73); it carries the raw opcode (R63). -/
  | unknownOpcode (raw : Word)
  deriving DecidableEq, Repr

/-- Decoding from bytes: the byte at the lower address is the high byte of the opcode (20 R45). Returns the instruction
and the bytes after it; total on any bytes. -/
def decodeBytes : List Byte → Except DecodeError (Instr × List Byte)
  | hi :: lo :: rest =>
    match decode (hi ++ lo) with
    | some i => .ok (i, rest)
    | none => .error (.unknownOpcode (hi ++ lo))
  | few => .error (.truncated few.length)

/-! ### The opcode map as numbers, and the encoder (30 R65, R76) -/

/-- The numeric tag of 30 R65. -/
def Tag.code : Tag → BitVec 6
  | .sys => 0 | .cls => 1 | .ret => 2 | .jp => 3 | .call => 4 | .seImm => 5 | .sneImm => 6 | .seReg => 7
  | .ldImm => 8 | .addImm => 9 | .ldReg => 10 | .or => 11 | .and => 12 | .xor => 13 | .addReg => 14 | .sub => 15
  | .shr => 16 | .subn => 17 | .shl => 18 | .sneReg => 19 | .ldI => 20 | .jpV0 => 21 | .rnd => 22 | .drw => 23
  | .skp => 24 | .sknp => 25 | .ldVxDt => 26 | .ldVxK => 27 | .ldDtVx => 28 | .ldStVx => 29 | .addIVx => 30
  | .ldFVx => 31 | .ldBVx => 32 | .ldMemVx => 33 | .ldVxMem => 34

/-- The "mask" column of 30 R76. -/
def Tag.mask : Tag → Word
  | .sys | .cls | .ret => 0xF0FF
  | .jp | .call | .seImm | .sneImm | .seReg | .ldImm | .addImm => 0xF000
  | .ldReg | .or | .and | .xor | .addReg | .sub | .shr | .subn | .shl => 0xF00F
  | .sneReg | .ldI | .jpV0 | .rnd | .drw => 0xF000
  | .skp | .sknp | .ldVxDt | .ldVxK | .ldDtVx | .ldStVx | .addIVx | .ldFVx | .ldBVx | .ldMemVx | .ldVxMem => 0xF0FF

/-- The "match" column of 30 R76. -/
def Tag.pattern : Tag → Word
  | .sys => 0x0000 | .cls => 0x00E0 | .ret => 0x00EE | .jp => 0x1000 | .call => 0x2000 | .seImm => 0x3000
  | .sneImm => 0x4000 | .seReg => 0x5000 | .ldImm => 0x6000 | .addImm => 0x7000 | .ldReg => 0x8000 | .or => 0x8001
  | .and => 0x8002 | .xor => 0x8003 | .addReg => 0x8004 | .sub => 0x8005 | .shr => 0x8006 | .subn => 0x8007
  | .shl => 0x800E | .sneReg => 0x9000 | .ldI => 0xA000 | .jpV0 => 0xB000 | .rnd => 0xC000 | .drw => 0xD000
  | .skp => 0xE09E | .sknp => 0xE0A1 | .ldVxDt => 0xF007 | .ldVxK => 0xF00A | .ldDtVx => 0xF015 | .ldStVx => 0xF018
  | .addIVx => 0xF01E | .ldFVx => 0xF029 | .ldBVx => 0xF033 | .ldMemVx => 0xF055 | .ldVxMem => 0xF065

/-- The tag of an instruction. -/
def Instr.tag : Instr → Tag
  | .sys _ => .sys | .cls _ => .cls | .ret _ => .ret | .jp _ => .jp | .call _ => .call | .seImm _ _ => .seImm
  | .sneImm _ _ => .sneImm | .seReg _ _ _ => .seReg | .ldImm _ _ => .ldImm | .addImm _ _ => .addImm
  | .ldReg _ _ => .ldReg | .or _ _ => .or | .and _ _ => .and | .xor _ _ => .xor | .addReg _ _ => .addReg
  | .sub _ _ => .sub | .shr _ _ => .shr | .subn _ _ => .subn | .shl _ _ => .shl | .sneReg _ _ _ => .sneReg
  | .ldI _ => .ldI | .jpV0 _ => .jpV0 | .rnd _ _ => .rnd | .drw _ _ _ => .drw | .skp _ => .skp | .sknp _ => .sknp
  | .ldVxDt _ => .ldVxDt | .ldVxK _ => .ldVxK | .ldDtVx _ => .ldDtVx | .ldStVx _ => .ldStVx | .addIVx _ => .addIVx
  | .ldFVx _ => .ldFVx | .ldBVx _ => .ldBVx | .ldMemVx _ => .ldMemVx | .ldVxMem _ => .ldVxMem

/-- The opcode of an instruction, nibble by nibble from the "pattern" column of 30 R76. -/
def encode : Instr → Word
  | .sys ign => 0x0#4 ++ ign ++ 0x00#8
  | .cls ign => 0x0#4 ++ ign ++ 0xE0#8
  | .ret ign => 0x0#4 ++ ign ++ 0xEE#8
  | .jp nnn => 0x1#4 ++ nnn
  | .call nnn => 0x2#4 ++ nnn
  | .seImm x nn => 0x3#4 ++ x ++ nn
  | .sneImm x nn => 0x4#4 ++ x ++ nn
  | .seReg x y ign => 0x5#4 ++ x ++ y ++ ign
  | .ldImm x nn => 0x6#4 ++ x ++ nn
  | .addImm x nn => 0x7#4 ++ x ++ nn
  | .ldReg x y => 0x8#4 ++ x ++ y ++ 0x0#4
  | .or x y => 0x8#4 ++ x ++ y ++ 0x1#4
  | .and x y => 0x8#4 ++ x ++ y ++ 0x2#4
  | .xor x y => 0x8#4 ++ x ++ y ++ 0x3#4
  | .addReg x y => 0x8#4 ++ x ++ y ++ 0x4#4
  | .sub x y => 0x8#4 ++ x ++ y ++ 0x5#4
  | .shr x y => 0x8#4 ++ x ++ y ++ 0x6#4
  | .subn x y => 0x8#4 ++ x ++ y ++ 0x7#4
  | .shl x y => 0x8#4 ++ x ++ y ++ 0xE#4
  | .sneReg x y ign => 0x9#4 ++ x ++ y ++ ign
  | .ldI nnn => 0xA#4 ++ nnn
  | .jpV0 nnn => 0xB#4 ++ nnn
  | .rnd x nn => 0xC#4 ++ x ++ nn
  | .drw x y n => 0xD#4 ++ x ++ y ++ n
  | .skp x => 0xE#4 ++ x ++ 0x9E#8
  | .sknp x => 0xE#4 ++ x ++ 0xA1#8
  | .ldVxDt x => 0xF#4 ++ x ++ 0x07#8
  | .ldVxK x => 0xF#4 ++ x ++ 0x0A#8
  | .ldDtVx x => 0xF#4 ++ x ++ 0x15#8
  | .ldStVx x => 0xF#4 ++ x ++ 0x18#8
  | .addIVx x => 0xF#4 ++ x ++ 0x1E#8
  | .ldFVx x => 0xF#4 ++ x ++ 0x29#8
  | .ldBVx x => 0xF#4 ++ x ++ 0x33#8
  | .ldMemVx x => 0xF#4 ++ x ++ 0x55#8
  | .ldVxMem x => 0xF#4 ++ x ++ 0x65#8

/-- The two bytes of an opcode as memory holds it, high byte at the lower address (20 R45). -/
def opcodeBytes (op : Word) : List Byte := [op.extractLsb' 8 8, op.extractLsb' 0 8]

/-- The bytes of an instruction. -/
def encodeBytes (i : Instr) : List Byte := opcodeBytes (encode i)

/-- What the decoder reads from the opcode whose low `nbits` bits are `w` and whose other bits are 0, laid out as memory
holds it. -/
def decodeTableWord (nbits w : Nat) : Option Instr :=
  match decodeBytes (opcodeBytes (BitVec.ofNat 16 (w % 2 ^ nbits))) with
  | .ok (i, _) => some i
  | .error _ => none

end Sys2Proof
end

