-- ==== Sys2Proof/Config.lean ====
section
/-! DEFINITION. The fixed parameters of chip8_core (spec/00_scope.md R5) and the values the host is free to choose,
which the model leaves open (log 3, 4, 5). -/

namespace Sys2Proof.Config

/-- Bytes of MEM, addresses 0 to 4095 (20 R40). -/
abbrev memSize : Nat := 4096

/-- The program load address, and the value of PC after reset (00 R5, 10 R13, R27). -/
abbrev programStart : Nat := 0x200

/-- ROM bytes that fit: 4096 − 0x200 (00 R5, 70 R211). -/
abbrev romCapacity : Nat := 3584

/-- Entries of the call stack (10 R14). -/
abbrev stackDepth : Nat := 16

/-- FREE VALUE (log 3). The input `tick_due` of the n-th cycle request: 60 R195 calls it free, "it may be 0 or 1 on any
cycle, in any pattern". It has no body, so nothing can be proved of its values. -/
opaque tickDue : Nat → Bool

/-- FREE VALUE (log 4). The input `rand_byte` of the n-th cycle request: 60 R200 calls it free on every cycle. It has no
body, so nothing can be proved of its values. -/
opaque randByte : Nat → Byte

/-- FREE VALUE (log 5). The `set_key(k, pressed)` calls the host makes between cycle request n − 1 (or reset) and cycle
request n, in order: 60 R199, "it may be applied any number of times between two cycles". -/
opaque setKeyCalls : Nat → List (Nibble × Bool)

end Sys2Proof.Config
end

