-- ==== Sys2Proof/Machine/State.lean ====
section
/-! DEFINITION. The architectural state of chip8_core (spec/10_state.md R10 to R23) as plain data, its value after
reset (R27), and the reasons a step can stop. -/

namespace Sys2Proof.Machine

/-- VARIANT (10 R23): `chip8` is encoded 0, `superchip` 1. -/
inductive Variant where
  | chip8
  | superchip
  deriving DecidableEq, Repr

/-- STATUS (10 R21): `running` is 0, `faulted` 1. -/
inductive Status where
  | running
  | faulted
  deriving DecidableEq, Repr

/-- FAULT_KIND (10 R22, 60 R180), in the order of the codes 0 to 6. -/
inductive FaultKind where
  | none
  | memoryOutOfBounds
  | unknownOpcode
  | unimplemented
  | stackFull
  | stackEmpty
  | badKeyIndex
  deriving DecidableEq, Repr

/-- FB (10 R16): row y in 0 to 31, each a row of 64 pixels; the pixel in column x is bit x of its row, so that pixel
(x, y) is bit 64·y + x of the flat layout of D26 (log 13). -/
abbrev Framebuffer := Vector (BitVec 64) 32

/-- MEM as the list of its bytes that are not 0: an address that is not listed reads as 0, the value 10 R27 gives every
byte at reset (log 11). -/
abbrev Memory := List Host.Cell

/-- The cells from address `lo` on: addresses strictly rising, below 4096, and no byte equal to 0. -/
def Memory.wfFrom : Nat → Memory → Bool
  | _, [] => true
  | lo, (a, b) :: rest =>
    decide (lo ≤ a) && decide (a < Config.memSize) && decide (b ≠ 0#8) && Memory.wfFrom (a + 1) rest

/-- The canonical form of memory. -/
def Memory.wf (m : Memory) : Bool := Memory.wfFrom 0 m

/-- Everything the spec gives the machine (10 R10 to R23), and three fields of the model's own for the inputs of a
cycle. -/
structure State where
  /-- V[0] to V[15]; V[15] is VF (R10, R11). -/
  v : Vector Byte 16
  /-- I, the address register (R12). -/
  i : Word
  /-- PC, the program counter (R13). -/
  pc : Word
  /-- SP, the call-stack depth, 0 to 16 (R14; log 9). -/
  sp : Fin 17
  /-- STACK[0] to STACK[15] (R14). -/
  stack : Vector Word 16
  /-- MEM (R15). -/
  mem : Memory
  /-- FB (R16). -/
  fb : Framebuffer
  /-- DT, the delay timer (R17). -/
  dt : Byte
  /-- ST, the sound timer (R18). -/
  st : Byte
  /-- KEYS, bit k = key k is held down (R19). -/
  keys : Word
  /-- VARIANT (R23). -/
  variant : Variant
  /-- STATUS (R21). -/
  status : Status
  /-- FAULT_KIND (R22). -/
  faultKind : FaultKind
  /-- FAULT_OPCODE (R22). -/
  faultOpcode : Word
  /-- FAULT_PC (R22). -/
  faultPc : Word
  /-- The model's own: the input `tick_due` of the cycle in progress (60 R195; log 3, 6). -/
  tickDue : Bool
  /-- The model's own: the input `rand_byte` of the cycle in progress (60 R200; log 4, 6). -/
  randByte : Byte
  /-- The model's own: how many cycle requests have been made; it picks the host's free values (log 3 to 6). -/
  cycles : Nat
  deriving DecidableEq, Repr

/-- The machine right after reset (10 R27, 70 R212), with the launch arguments `rom` = no bytes and `variant` = CHIP8
(log 7); State.load in Ops.lean is reset for any launch arguments. -/
def State.reset : State where
  v := Vector.replicate 16 0#8
  i := 0#16
  pc := 0x0200#16
  sp := 0
  stack := Vector.replicate 16 0#16
  mem := []
  fb := Vector.replicate 32 0#64
  dt := 0#8
  st := 0#8
  keys := 0#16
  variant := .chip8
  status := .running
  faultKind := .none
  faultOpcode := 0#16
  faultPc := 0#16
  tickDue := false
  randByte := 0#8
  cycles := 0

/-- What the host can read between cycles (10 R30, 60 R201). -/
structure HostView where
  framebuffer : Framebuffer
  delayTimer : Byte
  soundTimer : Byte
  status : BitVec 1
  faultKind : BitVec 3
  faultOpcode : Word
  faultPc : Word
  deriving DecidableEq, Repr

/-- The reasons the machine stops without a next state: none. Every fault of the spec is a NEXT state, the fault entry
of 60 R188 (log 1), and a faulted core answers a cycle request with itself (40 R90; log 2), so the type is empty and
nothing can raise it. Safe. -/
inductive Fault where
  deriving DecidableEq, Repr

/-- The reasons an instruction has no meaning. -/
inductive Refusal where
  /-- An instruction without a meaning yet, by its mnemonic. Raised by no arm of exec: every instruction has its
  meaning. Safe. -/
  | notModelled (mnemonic : String)
  deriving DecidableEq, Repr

end Sys2Proof.Machine
end

