-- ==== Sys2Proof/Machine/Ops.lean ====
section
/-! DEFINITION. The named operations over registers, memory, call stack, framebuffer, timers, keypad and fault record
(spec/10, 20, 40, 60, 70). -/

namespace Sys2Proof.Machine

/-! ### The register file (10 R10 to R13) -/

/-- `V[x]`. -/
def State.getV (s : State) (x : Nibble) : Byte := s.v[x.toNat]

/-- `V[x] <- b`. -/
def State.setV (s : State) (x : Nibble) (b : Byte) : State := { s with v := s.v.set x.toNat b }

/-- `V[15] <- f` as a flag, 0 or 1 (R11). -/
def State.setVF (s : State) (f : Bool) : State := s.setV 0xF#4 (if f then 1#8 else 0#8)

/-- `I <- w`. -/
def State.setI (s : State) (w : Word) : State := { s with i := w }

/-- `PC <- w`. -/
def State.setPc (s : State) (w : Word) : State := { s with pc := w }

/-- The advance of PC by 2 after a fetch, and the further advance of a skip, modulo 65536 (40 R91, R99). -/
def State.advancePc (s : State) : State := s.setPc (s.pc + 2#16)

/-- A skip instruction's effect: one further advance when the condition holds (40 R99). -/
def State.skipIf (s : State) (c : Bool) : State := if c then s.advancePc else s

/-! ### Memory (20 R40 to R45) -/

/-- `MEM[a]`; an address that is not listed reads as 0 (10 R27; log 11). -/
def Memory.read : Memory → Nat → Byte
  | [], _ => 0#8
  | (k, c) :: rest, a => if k = a then c else Memory.read rest a

/-- `MEM[a] <- b`, keeping the canonical form. -/
def Memory.write : Memory → Nat → Byte → Memory
  | [], a, b => if b = 0#8 then [] else [(a, b)]
  | (k, c) :: rest, a, b =>
    if a < k then (if b = 0#8 then (k, c) :: rest else (a, b) :: (k, c) :: rest)
    else if a = k then (if b = 0#8 then rest else (a, b) :: rest)
    else (k, c) :: Memory.write rest a b

/-- The `n` bytes from address `a` on, lowest first. -/
def Memory.readBytes (m : Memory) : Nat → Nat → List Byte
  | _, 0 => []
  | a, n + 1 => m.read a :: m.readBytes (a + 1) n

/-- The list of bytes stored from address `a` on, lowest first. -/
def Memory.writeBytes (m : Memory) : Nat → List Byte → Memory
  | _, [] => m
  | a, b :: rest => (m.write a b).writeBytes (a + 1) rest

/-- The range check of R43 and R44: does an access of `n` bytes at `addr` leave 0 to 4095? The sum is not wrapped. -/
def outOfBounds (addr : Word) (n : Nat) : Bool := decide (0 < n ∧ 4095 < addr.toNat + n - 1)

/-- `MemRead(addr, n)` (R43); `none` is its MemoryOutOfBounds. -/
def State.memRead (s : State) (addr : Word) (n : Nat) : Option (List Byte) :=
  if outOfBounds addr n then none else some (s.mem.readBytes addr.toNat n)

/-- `MemWrite(addr, n, bytes)` (R44), `n` the length of the list; `none` is its MemoryOutOfBounds, with nothing
written. -/
def State.memWrite (s : State) (addr : Word) (bytes : List Byte) : Option State :=
  if outOfBounds addr bytes.length then none
  else some { s with mem := s.mem.writeBytes addr.toNat bytes }

/-- `Fetch(PC)` (R45): two bytes, big-endian; `none` is its MemoryOutOfBounds, exactly when PC > 4094. -/
def State.fetch (s : State) : Option Word :=
  match s.memRead s.pc 2 with
  | some (hi :: lo :: _) => some (hi ++ lo)
  | _ => none

/-- An opcode stored where the next fetch reads it; nothing where PC > 4094 leaves no place for it (log 12). -/
def State.placeOpcode (s : State) (op : Word) : State := (s.memWrite s.pc (opcodeBytes op)).getD s

/-! ### The call stack (40 R93, R94) -/

/-- `Push(w)`; `none` is its StackFull. -/
def State.push (s : State) (w : Word) : Option State :=
  if h : s.sp.val < 16 then
    some { s with stack := s.stack.set s.sp.val w, sp := ⟨s.sp.val + 1, by omega⟩ }
  else none

/-- `Pop()`, the entry at the new depth and the state after it; `none` is its StackEmpty. The entry keeps its value. -/
def State.pop (s : State) : Option (Word × State) :=
  if h : 0 < s.sp.val then
    some (s.stack[s.sp.val - 1], { s with sp := ⟨s.sp.val - 1, by omega⟩ })
  else none

/-! ### The framebuffer (43 R150) -/

/-- `FB[y][x]`, for x in 0 to 63 and y in 0 to 31; outside the grid there is no pixel and no rule reads one (log 14). -/
def Framebuffer.pixel (fb : Framebuffer) (x y : Nat) : Bool :=
  if h : y < 32 then fb[y].getLsbD x else false

/-- `xor_write(x, y)`: inverts `FB[y][x]`; applied inside the grid only (log 14). -/
def Framebuffer.xorWrite (fb : Framebuffer) (x y : Nat) : Framebuffer :=
  if h : y < 32 then fb.set y (fb[y] ^^^ BitVec.twoPow 64 x) else fb

/-- `clear`: all 2048 pixels 0. -/
def Framebuffer.clear : Framebuffer := Vector.replicate 32 0#64

/-- `FB <- fb`. -/
def State.setFb (s : State) (fb : Framebuffer) : State := { s with fb := fb }

/-! ### Timers (60 R194) -/

/-- `DT <- b`. -/
def State.setDt (s : State) (b : Byte) : State := { s with dt := b }

/-- `ST <- b`. -/
def State.setSt (s : State) (b : Byte) : State := { s with st := b }

/-- One timer at a cycle's start: one less when a tick is due, never below 0. -/
def tickDown (due : Bool) (t : Byte) : Byte :=
  if t = 0#8 then 0#8 else if due then t - 1#8 else t

/-- The tick at the start of a cycle, both timers on the input `tick_due` of the cycle. -/
def State.tickTimers (s : State) : State :=
  { s with dt := tickDown s.tickDue s.dt, st := tickDown s.tickDue s.st }

/-! ### Faults (60 R180, R188) -/

/-- FAULT_KIND's code of R180. -/
def FaultKind.code : FaultKind → BitVec 3
  | .none => 0
  | .memoryOutOfBounds => 1
  | .unknownOpcode => 2
  | .unimplemented => 3
  | .stackFull => 4
  | .stackEmpty => 5
  | .badKeyIndex => 6

/-- STATUS as the bit of 10 R21. -/
def Status.bit : Status → BitVec 1
  | .running => 0
  | .faulted => 1

/-- VARIANT as the bit of 10 R23. -/
def Variant.bit : Variant → BitVec 1
  | .chip8 => 0
  | .superchip => 1

/-- Fault entry (R188) for fault `k` in a cycle whose opcode is `op` and whose fetch address is `a`. It is the one way
an exception is taken; there is no return from it but reset (R189), so no operation stands beside it. -/
def State.faultEntry (s : State) (k : FaultKind) (op a : Word) : State :=
  { s with status := .faulted, faultKind := k, faultOpcode := op, faultPc := a }

/-- `raise k` while instruction `i` executes: PC is already 2 past the fetch address (40 R91), and the opcode is the
encoding of `i` (DEDUCED, log 8). -/
def State.raise (s : State) (k : FaultKind) (i : Instr) : State := s.faultEntry k (encode i) (s.pc - 2#16)

/-! ### The keypad and the host (60 R195 to R201, 70 R210, R211) -/

/-- `KEYS[k] <- pressed` on the latch alone. -/
def setKeyBit (keys : Word) (k : Nibble) (pressed : Bool) : Word :=
  if pressed then keys ||| BitVec.twoPow 16 k.toNat else keys &&& ~~~BitVec.twoPow 16 k.toNat

/-- `set_key(k, pressed)` (R199). -/
def State.setKey (s : State) (k : Nibble) (pressed : Bool) : State :=
  { s with keys := setKeyBit s.keys k pressed }

/-- The host's part of the n-th cycle request, n = `cycles`: the set_key calls made since the last cycle (R199), then
the two inputs of this cycle (R195, R200). All three are free values (log 3, 4, 5). -/
def State.hostInputs (s : State) : State :=
  { s with
    keys := (Config.setKeyCalls s.cycles).foldl (fun keys call => setKeyBit keys call.1 call.2) s.keys
    tickDue := Config.tickDue s.cycles
    randByte := Config.randByte s.cycles
    cycles := s.cycles + 1 }

/-- Reset, D0's `load(rom, variant)` (70 R210, R211): ROM bytes from 0x200 on, those beyond 3584 ignored, everything else
as 10 R27 says. Nothing of an earlier state survives, so none is an argument. -/
def State.load (rom : List Byte) (variant : Variant) : State :=
  { State.reset with
    mem := Memory.writeBytes [] Config.programStart (rom.take Config.romCapacity)
    variant := variant }

/-- What the host reads between cycles (10 R30, 60 R201). -/
def State.hostView (s : State) : HostView where
  framebuffer := s.fb
  delayTimer := s.dt
  soundTimer := s.st
  status := s.status.bit
  faultKind := s.faultKind.code
  faultOpcode := s.faultOpcode
  faultPc := s.faultPc

end Sys2Proof.Machine
end

