-- ==== Sys2Proof/Machine/Flags.lean ====
section
/-! DEFINITION. The ALU chip8_alu and its flag output (spec/41_load_and_alu.md R110 to R114). -/

namespace Sys2Proof.Machine

/-- The ALU's nine operations (R110: "a nine-valued type ... no tenth case"). -/
inductive AluOp where
  | mov | or | and | xor | add | sub | shr | subn | shl
  deriving DecidableEq, Repr

/-- The select value of R110, the sub-code of family 0x8. -/
def AluOp.sel : AluOp → Nibble
  | .mov => 0x0
  | .or => 0x1
  | .and => 0x2
  | .xor => 0x3
  | .add => 0x4
  | .sub => 0x5
  | .shr => 0x6
  | .subn => 0x7
  | .shl => 0xE

/-- Carry out of an 8-bit sum. -/
def carryOut (a b : Byte) : Bool := decide (255 < a.toNat + b.toNat)

/-- No borrow in `a − b`: the minuend is not below the subtrahend. -/
def noBorrow (a b : Byte) : Bool := decide (b.toNat ≤ a.toNat)

/-- `Alu(sel, a, b) = (r, f)` (R110). The shifts act on `b` and fill with 0. -/
def alu (sel : AluOp) (a b : Byte) : Byte × Bool :=
  match sel with
  | .mov => (b, false)
  | .or => (a ||| b, false)
  | .and => (a &&& b, false)
  | .xor => (a ^^^ b, false)
  | .add => (a + b, carryOut a b)
  | .sub => (a - b, noBorrow a b)
  | .shr => (b >>> 1, b.getLsbD 0)
  | .subn => (b - a, noBorrow b a)
  | .shl => (b <<< 1, b.getLsbD 7)

/-- `LoNibble(a)` (R111). -/
def loNibble (a : Byte) : Nibble := a.extractLsb' 0 4

/-- `HiNibble(a)` (R111). -/
def hiNibble (a : Byte) : Nibble := a.extractLsb' 4 4

/-- `Bcd(a)`, hundreds, tens and units (R112). -/
def bcd (a : Byte) : Byte × Byte × Byte :=
  (BitVec.ofNat 8 (a.toNat / 100), BitVec.ofNat 8 (a.toNat / 10 % 10), BitVec.ofNat 8 (a.toNat % 10))

/-- The result to `V[x]`, then the flag to VF, last (R114). -/
def State.setResultAndFlag (s : State) (x : Nibble) (rf : Byte × Bool) : State := (s.setV x rf.1).setVF rf.2

/-- The result to `V[x]`, then, on CHIP8 only, VF cleared, last (R118 to R120, R114). -/
def State.setLogicResult (s : State) (x : Nibble) (r : Byte) : State :=
  match s.variant with
  | .chip8 => (s.setV x r).setVF false
  | .superchip => s.setV x r

end Sys2Proof.Machine
end

