-- ==== Sys2Proof/Machine/Operands.lean ====
section
/-! DEFINITION. The operand forms: the shift source, the key index, the register block, the post-increment of I
(spec/41 R123, 44 R170, R171, 42 R137, R141, R142). -/

namespace Sys2Proof.Machine

/-- The value a shift works on: `V[y]` on CHIP8, `V[x]` on SUPERCHIP (41 R123, R125). -/
def State.shiftSource (s : State) (x y : Nibble) : Byte :=
  match s.variant with
  | .chip8 => s.getV y
  | .superchip => s.getV x

/-- `KeyIndex(v)` (44 R171); `none` is its BadKeyIndex, when v > 15. -/
def keyIndex (v : Byte) : Option Nibble :=
  if hiNibble v = 0#4 then some (loNibble v) else none

/-- Is key `k` down? (10 R19) -/
def State.keyDown (s : State) (k : Nibble) : Bool := s.keys.getLsbD k.toNat

/-- The least key that is down, scanning in ascending order; `none` when KEYS = 0 (44 R170). -/
def State.firstKey (s : State) : Option Nat := (List.range 16).find? (fun k => s.keys.getLsbD k)

/-- The registers `V[from]`, `V[from + 1]`, ..., `n` of them, as a list. -/
def State.regList (s : State) : Nat → Nat → List Byte
  | _, 0 => []
  | k, n + 1 => s.getV (BitVec.ofNat 4 k) :: s.regList (k + 1) n

/-- The registers `V[0]` to `V[x]` (42 R141). -/
def State.regBlock (s : State) (x : Nibble) : List Byte := s.regList 0 (x.toNat + 1)

/-- `V[k] <- bytes[0]`, `V[k + 1] <- bytes[1]`, ... (42 R142). -/
def State.setRegs (s : State) : Nat → List Byte → State
  | _, [] => s
  | k, b :: rest => (s.setV (BitVec.ofNat 4 k) b).setRegs (k + 1) rest

/-- What the register dump and load do to I afterwards: `I + X + 1` modulo 65536 on CHIP8, nothing on SUPERCHIP
(10 R23, 42 R141, R142). -/
def State.postIncrement (s : State) (x : Nibble) : State :=
  match s.variant with
  | .chip8 => s.setI (s.i + x.setWidth 16 + 1#16)
  | .superchip => s

end Sys2Proof.Machine
end

