-- ==== Sys2Proof/Machine/Control.lean ====
section
/-! DEFINITION. The control-flow instructions (spec/40_cycle_and_control_flow.md R95 to R103). In every meaning PC has
already been advanced (R91). -/

namespace Sys2Proof.Machine

/-- SYS (R95): explicitly ignored. -/
def execSys (_ign : Nibble) (s : State) : Host.Outcome State Fault Refusal := .next s

/-- RET (R96): `PC <- Pop()`, or StackEmpty. -/
def execRet (ign : Nibble) (s : State) : Host.Outcome State Fault Refusal :=
  match s.pop with
  | some (target, t) => .next (t.setPc target)
  | none => .next (s.raise .stackEmpty (.ret ign))

/-- JP NNN (R97). -/
def execJp (nnn : Addr12) (s : State) : Host.Outcome State Fault Refusal := .next (s.setPc (nnn.setWidth 16))

/-- CALL NNN (R98): `Push(PC)`, `PC <- NNN`, or StackFull with PC left at a + 2. -/
def execCall (nnn : Addr12) (s : State) : Host.Outcome State Fault Refusal :=
  match s.push s.pc with
  | some t => .next (t.setPc (nnn.setWidth 16))
  | none => .next (s.raise .stackFull (.call nnn))

/-- SE Vx, NN (R99). -/
def execSeImm (x : Nibble) (nn : Byte) (s : State) : Host.Outcome State Fault Refusal :=
  .next (s.skipIf (s.getV x == nn))

/-- SNE Vx, NN (R100). -/
def execSneImm (x : Nibble) (nn : Byte) (s : State) : Host.Outcome State Fault Refusal :=
  .next (s.skipIf (s.getV x != nn))

/-- SE Vx, Vy (R101). -/
def execSeReg (x y _ign : Nibble) (s : State) : Host.Outcome State Fault Refusal :=
  .next (s.skipIf (s.getV x == s.getV y))

/-- SNE Vx, Vy (R102). -/
def execSneReg (x y _ign : Nibble) (s : State) : Host.Outcome State Fault Refusal :=
  .next (s.skipIf (s.getV x != s.getV y))

/-- JP V0, NNN (R103): register 0 on both variants, no flag. -/
def execJpV0 (nnn : Addr12) (s : State) : Host.Outcome State Fault Refusal :=
  .next (s.setPc (nnn.setWidth 16 + (s.getV 0#4).setWidth 16))

end Sys2Proof.Machine
end

