-- ==== Sys2Proof/Machine/Display.lean ====
section
/-! DEFINITION. The sprite collision detector and the display instructions (spec/43_display.md R151 to R153). -/

namespace Sys2Proof.Machine

/-- One turn of the inner loop of `Composite` (R151): sprite bit 7 − k of `byte`, at column px and row py. Nothing wraps
and nothing outside the grid is touched. -/
def compositeBit (byte : Byte) (px py k : Nat) (acc : Framebuffer × Bool) : Framebuffer × Bool :=
  if byte.getLsbD (7 - k) ∧ px ≤ 63 ∧ py ≤ 31 then
    (acc.1.xorWrite px py, acc.2 || acc.1.pixel px py)
  else acc

/-- The inner loop of `Composite`, k = 0 to 7. -/
def compositeRow (byte : Byte) (x0 py : Nat) (acc : Framebuffer × Bool) : Framebuffer × Bool :=
  (List.range 8).foldl (fun acc k => compositeBit byte (x0 + k) py k acc) acc

/-- The outer loop of `Composite`, from row y on. -/
def compositeRows (x0 : Nat) : Nat → List Byte → Framebuffer × Bool → Framebuffer × Bool
  | _, [], acc => acc
  | y, byte :: rest, acc => compositeRows x0 (y + 1) rest (compositeRow byte x0 y acc)

/-- `Composite(fb, x0, y0, rows) = (fb', c)` (R151): the start coordinates are the full 8-bit values. -/
def composite (fb : Framebuffer) (x0 y0 : Byte) (rows : List Byte) : Framebuffer × Bool :=
  compositeRows x0.toNat y0.toNat rows (fb, false)

/-- CLS (R152). -/
def execCls (_ign : Nibble) (s : State) : Host.Outcome State Fault Refusal := .next (s.setFb Framebuffer.clear)

/-- DRW Vx, Vy, N (R153): all N bytes are read before any pixel changes; VF, written last, is the collision flag. -/
def execDrw (x y n : Nibble) (s : State) : Host.Outcome State Fault Refusal :=
  match s.memRead s.i n.toNat with
  | some rows =>
    .next ((s.setFb (composite s.fb (s.getV x) (s.getV y) rows).1).setVF
      (composite s.fb (s.getV x) (s.getV y) rows).2)
  | none => .next (s.raise .memoryOutOfBounds (.drw x y n))

end Sys2Proof.Machine
end

