-- ==== Sys2Proof/Machine/IndexMemory.lean ====
section
/-! DEFINITION. The address-register and memory instructions (spec/42_index_and_memory.md R135 to R142). -/

namespace Sys2Proof.Machine

/-- LD I, NNN (R135). -/
def execLdI (nnn : Addr12) (s : State) : Host.Outcome State Fault Refusal := .next (s.setI (nnn.setWidth 16))

/-- ADD I, Vx (R136): modulo 65536, no flag. -/
def execAddIVx (x : Nibble) (s : State) : Host.Outcome State Fault Refusal :=
  .next (s.setI (s.i + (s.getV x).setWidth 16))

/-- LD F, Vx (R139): always raises Unimplemented; I is not changed and there is no font. -/
def execLdFVx (x : Nibble) (s : State) : Host.Outcome State Fault Refusal :=
  .next (s.raise .unimplemented (.ldFVx x))

/-- LD B, Vx (R140): hundreds, tens and units to I, I + 1, I + 2, or MemoryOutOfBounds with nothing written. -/
def execLdBVx (x : Nibble) (s : State) : Host.Outcome State Fault Refusal :=
  match s.memWrite s.i [(bcd (s.getV x)).1, (bcd (s.getV x)).2.1, (bcd (s.getV x)).2.2] with
  | some t => .next t
  | none => .next (s.raise .memoryOutOfBounds (.ldBVx x))

/-- LD [I], Vx (R141), the register dump, or MemoryOutOfBounds with nothing written and I unchanged. -/
def execLdMemVx (x : Nibble) (s : State) : Host.Outcome State Fault Refusal :=
  match s.memWrite s.i (s.regBlock x) with
  | some t => .next (t.postIncrement x)
  | none => .next (s.raise .memoryOutOfBounds (.ldMemVx x))

/-- LD Vx, [I] (R142), the register load, or MemoryOutOfBounds with no register and not I changed. -/
def execLdVxMem (x : Nibble) (s : State) : Host.Outcome State Fault Refusal :=
  match s.memRead s.i (x.toNat + 1) with
  | some bytes => .next ((s.setRegs 0 bytes).postIncrement x)
  | none => .next (s.raise .memoryOutOfBounds (.ldVxMem x))

end Sys2Proof.Machine
end

