-- ==== Sys2Proof/Machine/LoadAlu.lean ====
section
/-! DEFINITION. The register load, arithmetic, logic, shift and random instructions
(spec/41_load_and_alu.md R115 to R129). Operands are read before anything is written (R114). -/

namespace Sys2Proof.Machine

/-- LD Vx, NN (R115). -/
def execLdImm (x : Nibble) (nn : Byte) (s : State) : Host.Outcome State Fault Refusal := .next (s.setV x nn)

/-- ADD Vx, NN (R116): the carry is discarded. -/
def execAddImm (x : Nibble) (nn : Byte) (s : State) : Host.Outcome State Fault Refusal :=
  .next (s.setV x (alu .add (s.getV x) nn).1)

/-- LD Vx, Vy (R117). -/
def execLdReg (x y : Nibble) (s : State) : Host.Outcome State Fault Refusal :=
  .next (s.setV x (alu .mov (s.getV x) (s.getV y)).1)

/-- OR Vx, Vy (R118). -/
def execOr (x y : Nibble) (s : State) : Host.Outcome State Fault Refusal :=
  .next (s.setLogicResult x (alu .or (s.getV x) (s.getV y)).1)

/-- AND Vx, Vy (R119). -/
def execAnd (x y : Nibble) (s : State) : Host.Outcome State Fault Refusal :=
  .next (s.setLogicResult x (alu .and (s.getV x) (s.getV y)).1)

/-- XOR Vx, Vy (R120). -/
def execXor (x y : Nibble) (s : State) : Host.Outcome State Fault Refusal :=
  .next (s.setLogicResult x (alu .xor (s.getV x) (s.getV y)).1)

/-- ADD Vx, Vy (R121): VF is the carry. -/
def execAddReg (x y : Nibble) (s : State) : Host.Outcome State Fault Refusal :=
  .next (s.setResultAndFlag x (alu .add (s.getV x) (s.getV y)))

/-- SUB Vx, Vy (R122): `V[x] − V[y]`, VF is 1 if no borrow. -/
def execSub (x y : Nibble) (s : State) : Host.Outcome State Fault Refusal :=
  .next (s.setResultAndFlag x (alu .sub (s.getV x) (s.getV y)))

/-- SHR Vx, Vy (R123): VF is bit 0 of the source. -/
def execShr (x y : Nibble) (s : State) : Host.Outcome State Fault Refusal :=
  .next (s.setResultAndFlag x (alu .shr (s.getV x) (s.shiftSource x y)))

/-- SUBN Vx, Vy (R124): `V[y] − V[x]`, VF is 1 if no borrow. -/
def execSubn (x y : Nibble) (s : State) : Host.Outcome State Fault Refusal :=
  .next (s.setResultAndFlag x (alu .subn (s.getV x) (s.getV y)))

/-- SHL Vx, Vy (R125): VF is bit 7 of the source. -/
def execShl (x y : Nibble) (s : State) : Host.Outcome State Fault Refusal :=
  .next (s.setResultAndFlag x (alu .shl (s.getV x) (s.shiftSource x y)))

/-- RND Vx, NN (R129): the cycle's `rand_byte` AND the mask. -/
def execRnd (x : Nibble) (nn : Byte) (s : State) : Host.Outcome State Fault Refusal :=
  .next (s.setV x (alu .and s.randByte nn).1)

end Sys2Proof.Machine
end

