-- ==== Sys2Proof/Machine/TimersKeys.lean ====
section
/-! DEFINITION. The timer and keypad instructions (spec/44_timers_and_keys.md R165 to R171). -/

namespace Sys2Proof.Machine

/-- LD Vx, DT (R165): the value after this cycle's tick. -/
def execLdVxDt (x : Nibble) (s : State) : Host.Outcome State Fault Refusal := .next (s.setV x s.dt)

/-- LD DT, Vx (R166). -/
def execLdDtVx (x : Nibble) (s : State) : Host.Outcome State Fault Refusal := .next (s.setDt (s.getV x))

/-- LD ST, Vx (R167). -/
def execLdStVx (x : Nibble) (s : State) : Host.Outcome State Fault Refusal := .next (s.setSt (s.getV x))

/-- SKP Vx (R168), or BadKeyIndex. -/
def execSkp (x : Nibble) (s : State) : Host.Outcome State Fault Refusal :=
  match keyIndex (s.getV x) with
  | some k => .next (s.skipIf (s.keyDown k))
  | none => .next (s.raise .badKeyIndex (.skp x))

/-- SKNP Vx (R169), or BadKeyIndex. -/
def execSknp (x : Nibble) (s : State) : Host.Outcome State Fault Refusal :=
  match keyIndex (s.getV x) with
  | some k => .next (s.skipIf (!s.keyDown k))
  | none => .next (s.raise .badKeyIndex (.sknp x))

/-- LD Vx, K (R170): the least key that is down to `V[x]`, or PC back to this instruction's own address. -/
def execLdVxK (x : Nibble) (s : State) : Host.Outcome State Fault Refusal :=
  .next (match s.firstKey with
    | some k => s.setV x (BitVec.ofNat 8 k)
    | none => s.setPc (s.pc - 2#16))

end Sys2Proof.Machine
end

