-- ==== Sys2Proof/Machine/Cycle.lean ====
section
/-! DEFINITION. The cycle (spec/40_cycle_and_control_flow.md R90): timer tick, fetch, decode, execute. -/

namespace Sys2Proof.Machine

/-- What follows the fetch of opcode `op` (R90): PC advanced by 2, decode, then UnknownOpcode (60 R182) or execute. -/
def State.decodeExecute (s : State) (op : Word) : Host.Outcome State Fault Refusal :=
  match decode op with
  | some i => exec i s.advancePc
  | none => .next (s.advancePc.faultEntry .unknownOpcode op s.pc)

/-- One `cycle` request (R90) on the inputs `tickDue` and `randByte` that the state holds. A faulted core changes nothing,
not even its timers. A fetch fault records opcode 0 and leaves PC as it is. -/
def State.cycle (s : State) : Host.Outcome State Fault Refusal :=
  match s.status with
  | .faulted => .next s
  | .running =>
    match s.tickTimers.fetch with
    | some op => s.tickTimers.decodeExecute op
    | none => .next (s.tickTimers.faultEntry .memoryOutOfBounds 0#16 s.pc)

end Sys2Proof.Machine
end

