-- ==== Sys2Proof/Machine/Step.lean ====
section
/-! DEFINITION. One step of the model: the host's part of a cycle request, then the cycle. -/

namespace Sys2Proof.Machine

/-- One step: the host's set_key calls and the cycle's inputs (free values, log 3 to 5), then the cycle of 40 R90. -/
def step (s : State) : Host.Outcome State Fault Refusal := s.hostInputs.cycle

/-- `s` with the opcode whose low `nbits` bits are `w`, other bits 0, stored at PC, where the next step fetches. Nothing
else changes (log 7, log 12). -/
def State.withFetchWord (s : State) (nbits w : Nat) : State := s.placeOpcode (BitVec.ofNat 16 (w % 2 ^ nbits))

end Sys2Proof.Machine
end

