-- ==== Sys2Proof/Safety.lean ====
section
/-! DEFINITION. What counts as a sound state and a good run, in the terms the statements use: the invariants of
spec/10_state.md R29, the fault conditions of spec/60_exceptions.md R180, the terminal convention of
spec/40_cycle_and_control_flow.md R106, and the frames of instructions. -/

namespace Sys2Proof.Machine

/-- The invariants of 10 R29, with the canonical form of memory and the fault record of a RUNNING core (60 R180). The
bounds on the widths of the registers and on SP are the types of State. -/
structure State.Inv (s : State) : Prop where
  /-- Memory is in canonical form, inside 0 to 4095. -/
  memory : s.mem.wf = true
  /-- `PC ≤ 0x10FE`. -/
  pcBound : s.pc.toNat ≤ 0x10FE
  /-- Every entry in use is a fetch address plus 2, so 2 to 4096. -/
  returnAddresses : ∀ k : Fin 16, k.val < s.sp.val → 2 ≤ s.stack[k].toNat ∧ s.stack[k].toNat ≤ 4096
  /-- `FAULT_KIND = 0` if and only if `STATUS = 0`. -/
  faultKind : s.faultKind = .none ↔ s.status = .running
  /-- While RUNNING the record holds its reset values. -/
  faultRecord : s.status = .running → s.faultOpcode = 0#16 ∧ s.faultPc = 0#16

/-- The terminal states of 40 R106, a convention of the spec: RUNNING, and the next opcode is a jump to itself. -/
def terminal (s : State) : Bool :=
  s.status == .running && decide (s.pc.toNat ≤ 0xFFE) && s.fetch == some (0x1000#16 + s.pc)

/-- The fault an instruction raises when it executes in `s`, or `none`: the table of 60 R180 with the conditions of R181
and R183 to R186, in plain arithmetic. -/
def faultOf (i : Instr) (s : State) : FaultKind :=
  match i with
  | .drw _ _ n => if 0 < n.toNat ∧ 4095 < s.i.toNat + n.toNat - 1 then .memoryOutOfBounds else .none
  | .ldBVx _ => if 4095 < s.i.toNat + 2 then .memoryOutOfBounds else .none
  | .ldMemVx x => if 4095 < s.i.toNat + x.toNat then .memoryOutOfBounds else .none
  | .ldVxMem x => if 4095 < s.i.toNat + x.toNat then .memoryOutOfBounds else .none
  | .ldFVx _ => .unimplemented
  | .call _ => if s.sp.val = 16 then .stackFull else .none
  | .ret _ => if s.sp.val = 0 then .stackEmpty else .none
  | .skp x => if 15 < (s.getV x).toNat then .badKeyIndex else .none
  | .sknp x => if 15 < (s.getV x).toNat then .badKeyIndex else .none
  | _ => .none

/-- The state after a fault of kind `k` in a cycle with fetch address `a` and opcode `op`, where nothing else changed
(60 R188). -/
def afterFault (s : State) (k : FaultKind) (op a : Word) : State :=
  { s with status := .faulted, faultKind := k, faultOpcode := op, faultPc := a }

/-! ### Frames -/

/-- Every byte of memory reads the same in both states. -/
def sameMemory (s t : State) : Prop := ∀ a : Nat, t.mem.read a = s.mem.read a

/-- Only general registers may differ: PC, I, the stack, memory, framebuffer, timers, keys and all else are as before. -/
def changesOnlyV (s t : State) : Prop := t = { s with v := t.v } ∧ sameMemory s t

/-- Only PC may differ. -/
def changesOnlyPc (s t : State) : Prop := t = { s with pc := t.pc } ∧ sameMemory s t

/-- Only I may differ. -/
def changesOnlyI (s t : State) : Prop := t = { s with i := t.i } ∧ sameMemory s t

/-- Register `x` holds `r`, every other general register is as before. -/
def registerBecomes (s t : State) (x : Nibble) (r : Nat) : Prop :=
  (t.getV x).toNat = r ∧ ∀ q : Nibble, q ≠ x → t.getV q = s.getV q

/-- The result `r` in register `x` and the flag `f` in VF, the flag winning when `x` is VF (41 R114); every other general
register is as before. -/
def resultThenFlag (s t : State) (x : Nibble) (r f : Nat) : Prop :=
  (t.getV 0xF#4).toNat = f ∧ (x ≠ 0xF#4 → (t.getV x).toNat = r) ∧
    ∀ q : Nibble, q ≠ x → q ≠ 0xF#4 → t.getV q = s.getV q

/-- The sprite bit that R151 draws at column `px`, row `py` of the grid, for a sprite `rows` that starts at (x0, y0):
bit 7 of a byte is its leftmost pixel, and nothing wraps. -/
def spriteBit (x0 y0 : Byte) (rows : List Byte) (px py : Nat) : Bool :=
  decide (x0.toNat ≤ px ∧ px < x0.toNat + 8 ∧ y0.toNat ≤ py) &&
    (rows.getD (py - y0.toNat) 0#8).getLsbD (7 - (px - x0.toNat))

end Sys2Proof.Machine
end

