-- ==== Sys2Proof/Certificates/Slice0/Obligations.lean ====
section
/-! DEFINITION. The statements for the provers, from the numbered rules of spec/. An instruction is stated at the
execute phase of its cycle: PC has already been advanced past the opcode (40 R91), so "PC unchanged" means PC = a + 2 for
fetch address a, and StepRunsDecodedInstruction carries each statement to a step. -/

open Sys2Proof Sys2Proof.Machine

/-! ### The encoding -/

/-- Decoding the opcode of an instruction gives the instruction back, for every instruction and every operand. -/
def Obligations.DecodeOfEncode : Prop := ∀ i : Instr, decode (encode i) = some i

/-- The decoder loses no bit: an opcode that decodes is the opcode of the instruction it decodes to. -/
def Obligations.EncodeOfDecode : Prop := ∀ (op : Word) (i : Instr), decode op = some i → encode i = op

/-- R76: an opcode is the instruction of a row exactly when `opcode AND mask = match`, and no two rows overlap. -/
def Obligations.OpcodeMapExact : Prop :=
  (∀ (op : Word) (t : Tag),
    ((decodeRecord op).valid = true ∧ (decodeRecord op).op = t) ↔ op &&& t.mask = t.pattern) ∧
  (∀ (op : Word) (t u : Tag), op &&& t.mask = t.pattern → op &&& u.mask = u.pattern → t = u)

/-- R73: which opcodes are unknown, family by family. -/
def Obligations.UnknownOpcodesExact : Prop :=
  ∀ op : Word, decode op = none ↔
    (op.toNat / 4096 = 0x0 ∧ op.toNat % 256 ∉ [0x00, 0xE0, 0xEE]) ∨
    (op.toNat / 4096 = 0x8 ∧ op.toNat % 16 ∈ [0x8, 0x9, 0xA, 0xB, 0xC, 0xD, 0xF]) ∨
    (op.toNat / 4096 = 0xE ∧ op.toNat % 256 ∉ [0x9E, 0xA1]) ∨
    (op.toNat / 4096 = 0xF ∧
      op.toNat % 256 ∉ [0x07, 0x0A, 0x15, 0x18, 0x1E, 0x29, 0x33, 0x55, 0x65])

/-- R63: the eight fields of the decoded instruction, for every opcode; the operand fields are the same bits of the
opcode whatever the family. -/
def Obligations.DecodedRecordFields : Prop :=
  ∀ op : Word,
    ((decodeRecord op).valid = true ↔ ∃ t : Tag, op &&& t.mask = t.pattern) ∧
    ((decodeRecord op).valid = true → op &&& (decodeRecord op).op.mask = (decodeRecord op).op.pattern) ∧
    ((decodeRecord op).valid = false → (decodeRecord op).op.code = 0#6) ∧
    (decodeRecord op).x.toNat = op.toNat / 256 % 16 ∧
    (decodeRecord op).y.toNat = op.toNat / 16 % 16 ∧
    (decodeRecord op).n.toNat = op.toNat % 16 ∧
    (decodeRecord op).nn.toNat = op.toNat % 256 ∧
    (decodeRecord op).nnn.toNat = op.toNat % 4096 ∧
    (decodeRecord op).raw = op ∧
    (decodeRecord op).wf = true

/-- Opcodes the spec writes out, one or more of each family (R67 to R71, S7 to S10 and table 2.1 of 95). -/
def Obligations.SpecWordsDecode : Prop :=
  decode 0x0300#16 = some (.sys 0x3#4) ∧ decode 0x01E0#16 = some (.cls 0x1#4) ∧
  decode 0x0FEE#16 = some (.ret 0xF#4) ∧ decode 0x1ABC#16 = some (.jp 0xABC#12) ∧
  decode 0x2FFF#16 = some (.call 0xFFF#12) ∧ decode 0x3A42#16 = some (.seImm 0xA#4 0x42#8) ∧
  decode 0x4A42#16 = some (.sneImm 0xA#4 0x42#8) ∧
  decode 0x5AB7#16 = some (.seReg 0xA#4 0xB#4 0x7#4) ∧ decode 0x6005#16 = some (.ldImm 0x0#4 0x05#8) ∧
  decode 0x7003#16 = some (.addImm 0x0#4 0x03#8) ∧ decode 0x8ABE#16 = some (.shl 0xA#4 0xB#4) ∧
  decode 0x9ABF#16 = some (.sneReg 0xA#4 0xB#4 0xF#4) ∧ decode 0xA050#16 = some (.ldI 0x050#12) ∧
  decode 0xB123#16 = some (.jpV0 0x123#12) ∧ decode 0xC3F0#16 = some (.rnd 0x3#4 0xF0#8) ∧
  decode 0xD005#16 = some (.drw 0x0#4 0x0#4 0x5#4) ∧ decode 0xE1A1#16 = some (.sknp 0x1#4) ∧
  decode 0xF355#16 = some (.ldMemVx 0x3#4) ∧ decode 0xFFFF#16 = none ∧ decode 0x8ABD#16 = none ∧
  decode 0xE19F#16 = none ∧ decode 0x0123#16 = none

/-! ### Reset and the invariants -/

/-- R27, R211: every piece of state after reset, for every ROM and either variant. -/
def Obligations.LoadGivesResetState : Prop :=
  ∀ (rom : List Byte) (var : Variant),
    (∀ x : Nibble, (State.load rom var).getV x = 0#8) ∧
    (State.load rom var).i = 0#16 ∧ (State.load rom var).pc = 0x0200#16 ∧
    (State.load rom var).sp.val = 0 ∧ (∀ k : Fin 16, (State.load rom var).stack[k] = 0#16) ∧
    (∀ a : Nat, a < 4096 → (State.load rom var).mem.read a =
      if 0x200 ≤ a ∧ a - 0x200 < min rom.length 3584 then rom.getD (a - 0x200) 0#8 else 0#8) ∧
    (∀ x y : Nat, x < 64 → y < 32 → (State.load rom var).fb.pixel x y = false) ∧
    (State.load rom var).dt = 0#8 ∧ (State.load rom var).st = 0#8 ∧ (State.load rom var).keys = 0#16 ∧
    (State.load rom var).variant = var ∧ (State.load rom var).status = .running ∧
    (State.load rom var).faultKind = .none ∧ (State.load rom var).faultOpcode = 0#16 ∧
    (State.load rom var).faultPc = 0#16

/-- The model's choice (log 7): State.reset is the reset of R210 with no ROM bytes and the variant CHIP8. -/
def Obligations.ResetIsLoadOfNothing : Prop := State.reset = State.load [] .chip8

/-- The invariants of R29 hold after every reset. -/
def Obligations.LoadMeetsInvariants : Prop := ∀ (rom : List Byte) (var : Variant), (State.load rom var).Inv

/-- The invariants of R29 hold at State.reset. -/
def Obligations.ResetMeetsInvariants : Prop := State.reset.Inv

/-- Every step keeps the invariants of R29, from every state that has them: whatever the host does (log 3 to 5), whatever
the opcode, faults and faulted cores included. -/
def Obligations.StepKeepsInvariants : Prop := ∀ s t : State, s.Inv → step s = .next t → t.Inv

/-! ### The cycle -/

/-- No instruction stops the model and no step stops it: the faults of R180 are next states (R188; log 1). -/
def Obligations.EveryStepAnswersNext : Prop :=
  (∀ (i : Instr) (s : State), ∃ t, exec i s = .next t) ∧ (∀ s : State, ∃ t, step s = .next t)

/-- R90, R91: when the core runs and the two bytes at PC form an opcode that decodes to an instruction, the step is that
instruction executed in the state after the host's part of the cycle (log 3 to 5), the timer tick and the advance of PC. -/
def Obligations.StepRunsDecodedInstruction : Prop :=
  ∀ (s : State) (i : Instr),
    s.status = .running → s.pc.toNat ≤ 4094 →
    decode (s.mem.read s.pc.toNat ++ s.mem.read (s.pc.toNat + 1)) = some i →
    step s = exec i s.hostInputs.tickTimers.advancePc ∧
    s.hostInputs.tickTimers.advancePc.pc = s.pc + 2#16 ∧
    s.hostInputs.tickTimers.advancePc =
      { s with
        keys := s.hostInputs.keys, tickDue := s.hostInputs.tickDue, randByte := s.hostInputs.randByte
        cycles := s.cycles + 1, dt := s.hostInputs.tickTimers.dt, st := s.hostInputs.tickTimers.st
        pc := s.pc + 2#16 }

/-- R90, R189: a cycle request to a faulted core changes nothing, not even the timers; a step of the model changes only
the host's inputs (log 3 to 5), KEYS among them (R199). -/
def Obligations.FaultedCoreChangesNothing : Prop :=
  ∀ s : State, s.status = .faulted →
    s.cycle = .next s ∧
    ∃ t, step s = .next t ∧
      t = { s with keys := t.keys, tickDue := t.tickDue, randByte := t.randByte, cycles := s.cycles + 1 }

/-- R45, R181, R188: a fetch from PC > 4094 faults with opcode 0 and fetch address PC; PC is not advanced and the tick is
kept. -/
def Obligations.FetchFaultEntry : Prop :=
  ∀ s : State, s.status = .running → 4094 < s.pc.toNat →
    ∃ t, s.cycle = .next t ∧
      t = afterFault { s with dt := s.tickTimers.dt, st := s.tickTimers.st } .memoryOutOfBounds 0x0000#16 s.pc

/-- R182: an unknown opcode faults with the raw opcode and its fetch address; PC has been advanced past it and nothing
else but the tick of the cycle has changed. -/
def Obligations.UnknownOpcodeEntry : Prop :=
  ∀ (s : State) (op : Word), s.status = .running → s.fetch = some op → decode op = none →
    ∃ t, s.cycle = .next t ∧
      t = afterFault { s with dt := s.tickTimers.dt, st := s.tickTimers.st, pc := s.pc + 2#16 }
        .unknownOpcode op s.pc

/-- R188, R187: whatever faults in a cycle of a running core, the state after it is the state before it with the timer
tick, PC advanced if the fetch succeeded, STATUS set and the record written: the first fault met in the order fetch,
decode, execute, the fetched opcode (0 if the fetch faulted) and the fetch address. V, I, SP, STACK, MEM, FB and KEYS are
untouched. -/
def Obligations.FaultsArePrecise : Prop :=
  ∀ s t : State, s.status = .running → s.cycle = .next t → t.status = .faulted →
    t = afterFault
        { s with
          dt := s.tickTimers.dt, st := s.tickTimers.st
          pc := if s.fetch.isSome then s.pc + 2#16 else s.pc }
        (match s.fetch with
          | none => .memoryOutOfBounds
          | some op => match decode op with
            | none => .unknownOpcode
            | some i => faultOf i s.tickTimers.advancePc)
        (s.fetch.getD 0x0000#16) s.pc

/-- R180 to R186: an instruction faults exactly under the conditions of its rule (`faultOf`); when it faults it does the
fault entry and nothing else, with its own opcode and the fetch address a (PC is at a + 2, R91), and when it does not it
leaves STATUS and the fault record alone. -/
def Obligations.FaultConditionsExact : Prop :=
  ∀ (i : Instr) (s t : State) (a : Word), s.pc = a + 2#16 → exec i s = .next t →
    (faultOf i s = .none → t.status = s.status ∧ t.faultKind = s.faultKind ∧ t.faultOpcode = s.faultOpcode ∧
      t.faultPc = s.faultPc) ∧
    (faultOf i s ≠ .none → t = afterFault s (faultOf i s) (encode i) a)

/-- R180, R188, R30: what the host reads after a fault: STATUS 1, the code of the fault, the opcode and the fetch address;
the framebuffer and the timers as they were. -/
def Obligations.HostReadsFaultRecord : Prop :=
  ∀ (s : State) (op a : Word),
    [FaultKind.none, .memoryOutOfBounds, .unknownOpcode, .unimplemented, .stackFull, .stackEmpty,
      .badKeyIndex].map FaultKind.code = [0#3, 1#3, 2#3, 3#3, 4#3, 5#3, 6#3] ∧
    ∀ k : FaultKind, (afterFault s k op a).hostView =
      { framebuffer := s.fb, delayTimer := s.dt, soundTimer := s.st, status := 1#1, faultKind := k.code
        faultOpcode := op, faultPc := a }

/-- R194: in a cycle of a running core each timer goes down by one if the tick is due and it is above 0, and is otherwise
unchanged, unless this cycle's instruction is the one that writes the timer; the value written is not decremented
(R196). -/
def Obligations.TimersTickOncePerCycle : Prop :=
  ∀ s t : State, s.status = .running → s.cycle = .next t →
    (t.dt.toNat = (if s.tickDue then s.dt.toNat - 1 else s.dt.toNat) ∨
      ∃ op x, s.fetch = some op ∧ decode op = some (.ldDtVx x) ∧ t.dt = s.getV x) ∧
    (t.st.toNat = (if s.tickDue then s.st.toNat - 1 else s.st.toNat) ∨
      ∃ op x, s.fetch = some op ∧ decode op = some (.ldStVx x) ∧ t.st = s.getV x)

/-- R199: `set_key` writes its key and nothing else, and some sequence of calls brings KEYS to any value. -/
def Obligations.SetKeyWritesOneKey : Prop :=
  (∀ (s : State) (k j : Nibble) (p : Bool),
    (s.setKey k p).keyDown j = (if j = k then p else s.keyDown j) ∧
    s.setKey k p = { s with keys := (s.setKey k p).keys }) ∧
  (∀ (s : State) (w : Word), ∃ calls : List (Nibble × Bool),
    calls.foldl (fun u call => u.setKey call.1 call.2) s = { s with keys := w })

/-- R106: in a terminal state (a jump to itself) a cycle changes nothing but the two timers. -/
def Obligations.TerminalStateIsParked : Prop :=
  ∀ s : State, terminal s = true →
    s.cycle = .next { s with dt := s.tickTimers.dt, st := s.tickTimers.st }

/-! ### Memory -/

/-- R45: the fetch is the big-endian word at PC, and faults exactly when PC > 4094. -/
def Obligations.FetchBigEndian : Prop :=
  ∀ s : State,
    (4094 < s.pc.toNat → s.fetch = none) ∧
    (s.pc.toNat ≤ 4094 → ∃ op, s.fetch = some op ∧
      op.toNat = 256 * (s.mem.read s.pc.toNat).toNat + (s.mem.read (s.pc.toNat + 1)).toNat)

/-- R43: `MemRead` checks its whole range first, sums without wrapping, and returns the bytes in ascending order; reading
no byte never faults. -/
def Obligations.MemReadChecksWholeRange : Prop :=
  ∀ (s : State) (addr : Word) (n : Nat), n ≤ 16 →
    (n = 0 → s.memRead addr n = some []) ∧
    (0 < n → 4095 < addr.toNat + n - 1 → s.memRead addr n = none) ∧
    (0 < n → addr.toNat + n - 1 ≤ 4095 → ∃ bytes, s.memRead addr n = some bytes ∧ bytes.length = n ∧
      ∀ k, k < n → bytes.getD k 0#8 = s.mem.read (addr.toNat + k))

/-- R44: `MemWrite` writes all of its bytes or none; every byte outside them reads as before, and memory keeps its
canonical form. -/
def Obligations.MemWriteAllOrNothing : Prop :=
  ∀ (s : State) (addr : Word) (bytes : List Byte), s.mem.wf = true → 1 ≤ bytes.length → bytes.length ≤ 16 →
    (4095 < addr.toNat + bytes.length - 1 → s.memWrite addr bytes = none) ∧
    (addr.toNat + bytes.length - 1 ≤ 4095 → ∃ t, s.memWrite addr bytes = some t ∧
      t = { s with mem := t.mem } ∧ t.mem.wf = true ∧
      ∀ a : Nat, t.mem.read a =
        if addr.toNat ≤ a ∧ a < addr.toNat + bytes.length then bytes.getD (a - addr.toNat) 0#8 else s.mem.read a)

/-- R53, R219: a store over the next opcode is what the next fetch reads. -/
def Obligations.StoreSeenByNextFetch : Prop :=
  ∀ (s t : State) (hi lo : Byte), s.mem.wf = true → s.memWrite s.pc [hi, lo] = some t → t.fetch = some (hi ++ lo)

/-! ### Rules of the whole machine -/

/-- Who may write what, over all instructions: only CLS and DRW write the framebuffer (R16), only CALL and RET the call
stack (R14), only LD B and LD [I] memory (R42), only LD DT and LD ST the timers (R17, R18), only LD I, ADD I and the
register block transfers I (R12); none writes KEYS (R19), VARIANT (R23) or the inputs of the cycle. -/
def Obligations.InstructionWriteSets : Prop :=
  ∀ (i : Instr) (s t : State), exec i s = .next t →
    t.keys = s.keys ∧ t.variant = s.variant ∧ t.tickDue = s.tickDue ∧ t.randByte = s.randByte ∧
    t.cycles = s.cycles ∧
    (i.tag ∉ [Tag.cls, .drw] → t.fb = s.fb) ∧
    (i.tag ∉ [Tag.call, .ret] → t.sp = s.sp ∧ t.stack = s.stack) ∧
    (i.tag ∉ [Tag.ldBVx, .ldMemVx] → sameMemory s t) ∧
    (i.tag ≠ .ldDtVx → t.dt = s.dt) ∧
    (i.tag ≠ .ldStVx → t.st = s.st) ∧
    (i.tag ∉ [Tag.ldI, .addIVx, .ldMemVx, .ldVxMem] → t.i = s.i)

/-- R23, R220: VARIANT changes the behaviour of OR, AND, XOR, SHR, SHL and the register dump and load, and of nothing
else: every other instruction does the same on either variant. -/
def Obligations.VariantMattersOnlyForQuirks : Prop :=
  ∀ (i : Instr) (s t : State) (w : Variant),
    i.tag ∉ [Tag.or, .and, .xor, .shr, .shl, .ldMemVx, .ldVxMem] →
    exec i s = .next t → exec i { s with variant := w } = .next { t with variant := w }

/-- R92, R200: `rand_byte` is read by RND and by nothing else: every other instruction does the same whatever it is. -/
def Obligations.RandByteReadByRndOnly : Prop :=
  ∀ (i : Instr) (s t : State) (r : Byte), i.tag ≠ .rnd →
    exec i s = .next t → exec i { s with randByte := r } = .next { t with randByte := r }

/-- R105: a CALL at address a with SP < 16, followed by a RET fetched at its target, ends at a + 2 with the same depth;
a + 2 stays in the entry above the depth. -/
def Obligations.CallThenReturn : Prop :=
  ∀ (s t : State) (nnn : Addr12) (ign : Nibble) (h : s.sp.val < 16),
    s.status = .running → s.fetch = some (0x2#4 ++ nnn) → s.cycle = .next t →
    t.fetch = some (0x0#4 ++ ign ++ 0xEE#8) →
    t.pc.toNat = nnn.toNat ∧
    ∃ u, t.cycle = .next u ∧ u.pc = s.pc + 2#16 ∧ u.sp = s.sp ∧ u.stack[s.sp.val] = s.pc + 2#16

/-! ### Pure functions and the call stack -/

/-- R110: the nine operations of the ALU, select value, result and flag, in integer arithmetic. -/
def Obligations.AluOperations : Prop :=
  ∀ a b : Byte,
    [AluOp.mov, .or, .and, .xor, .add, .sub, .shr, .subn, .shl].map AluOp.sel =
      [0x0#4, 0x1#4, 0x2#4, 0x3#4, 0x4#4, 0x5#4, 0x6#4, 0x7#4, 0xE#4] ∧
    alu .mov a b = (b, false) ∧
    (∀ k, k < 8 → ((alu .or a b).1.getLsbD k = (a.getLsbD k || b.getLsbD k)) ∧
      ((alu .and a b).1.getLsbD k = (a.getLsbD k && b.getLsbD k)) ∧
      ((alu .xor a b).1.getLsbD k = (a.getLsbD k ^^ b.getLsbD k))) ∧
    (alu .or a b).2 = false ∧ (alu .and a b).2 = false ∧ (alu .xor a b).2 = false ∧
    (alu .add a b).1.toNat = (a.toNat + b.toNat) % 256 ∧ ((alu .add a b).2 = true ↔ 255 < a.toNat + b.toNat) ∧
    ((alu .sub a b).1.toNat : Int) = ((a.toNat : Int) - b.toNat) % 256 ∧
      ((alu .sub a b).2 = true ↔ b.toNat ≤ a.toNat) ∧
    (alu .shr a b).1.toNat = b.toNat / 2 ∧ ((alu .shr a b).2 = true ↔ b.toNat % 2 = 1) ∧
    ((alu .subn a b).1.toNat : Int) = ((b.toNat : Int) - a.toNat) % 256 ∧
      ((alu .subn a b).2 = true ↔ a.toNat ≤ b.toNat) ∧
    (alu .shl a b).1.toNat = 2 * b.toNat % 256 ∧ ((alu .shl a b).2 = true ↔ 128 ≤ b.toNat)

/-- R112: the BCD digits: their values, their ranges, and that they make up the number. -/
def Obligations.BcdDigits : Prop :=
  ∀ a : Byte,
    (bcd a).1.toNat = a.toNat / 100 ∧ (bcd a).2.1.toNat = a.toNat / 10 % 10 ∧ (bcd a).2.2.toNat = a.toNat % 10 ∧
    (bcd a).1.toNat ≤ 2 ∧ (bcd a).2.1.toNat ≤ 9 ∧ (bcd a).2.2.toNat ≤ 9 ∧
    100 * (bcd a).1.toNat + 10 * (bcd a).2.1.toNat + (bcd a).2.2.toNat = a.toNat

/-- R93, R94: Push and Pop, full and empty; a pop leaves its entry in place, and a pop after a push gives the value back
with the depth restored. -/
def Obligations.PushAndPop : Prop :=
  (∀ (s : State) (w : Word),
    (s.sp.val = 16 → s.push w = none) ∧
    (s.sp.val < 16 → ∃ t, s.push w = some t ∧ t = { s with sp := t.sp, stack := t.stack } ∧
      t.sp.val = s.sp.val + 1 ∧ (∀ k : Fin 16, t.stack[k] = if k.val = s.sp.val then w else s.stack[k]) ∧
      t.pop = some (w, { t with sp := s.sp }))) ∧
  (∀ s : State,
    (s.sp.val = 0 → s.pop = none) ∧
    (∀ k : Fin 16, s.sp.val = k.val + 1 → ∃ t, s.pop = some (s.stack[k], t) ∧
      t = { s with sp := t.sp } ∧ t.sp.val = k.val))

/-- R151: the framebuffer after `Composite`, pixel by pixel (each pixel of the grid is inverted exactly when a sprite bit
that is 1 falls on it, with nothing wrapped), and the collision flag. -/
def Obligations.CompositePixelByPixel : Prop :=
  ∀ (fb : Framebuffer) (x0 y0 : Byte) (rows : List Byte),
    (∀ px py : Nat, px < 64 → py < 32 →
      (composite fb x0 y0 rows).1.pixel px py = (fb.pixel px py ^^ spriteBit x0 y0 rows px py)) ∧
    ((composite fb x0 y0 rows).2 = true ↔
      ∃ px py : Nat, px < 64 ∧ py < 32 ∧ spriteBit x0 y0 rows px py = true ∧ fb.pixel px py = true)

/-- R151, R154: drawing a sprite twice at the same place restores the framebuffer; against a blank framebuffer the first
draw reports no collision, and the second reports one exactly when the first set a pixel. -/
def Obligations.DrawingTwiceRestores : Prop :=
  ∀ (fb : Framebuffer) (x0 y0 : Byte) (rows : List Byte),
    (composite (composite fb x0 y0 rows).1 x0 y0 rows).1 = fb ∧
    (composite Framebuffer.clear x0 y0 rows).2 = false ∧
    ((composite (composite Framebuffer.clear x0 y0 rows).1 x0 y0 rows).2 = true ↔
      ∃ px py : Nat, px < 64 ∧ py < 32 ∧ (composite Framebuffer.clear x0 y0 rows).1.pixel px py = true)

/-! ### Control flow (each with its encoding; memory and every register not named is unchanged) -/

/-- R95: SYS changes nothing. -/
def Obligations.SysChangesNothing : Prop :=
  ∀ (s : State) (ign : Nibble),
    decode (0x0#4 ++ ign ++ 0x00#8) = some (.sys ign) ∧ exec (.sys ign) s = .next s

/-- R96: RET takes PC from the top entry and lowers the depth; on an empty stack it faults and changes nothing else. -/
def Obligations.RetPopsOrFaults : Prop :=
  ∀ (s : State) (ign : Nibble),
    decode (0x0#4 ++ ign ++ 0xEE#8) = some (.ret ign) ∧
    (∀ k : Fin 16, s.sp.val = k.val + 1 → ∃ t, exec (.ret ign) s = .next t ∧
      t = { s with pc := t.pc, sp := t.sp } ∧ sameMemory s t ∧ t.pc = s.stack[k] ∧ t.sp.val = k.val) ∧
    (∀ a : Word, s.sp.val = 0 → s.pc = a + 2#16 →
      exec (.ret ign) s = .next (afterFault s .stackEmpty (0x0#4 ++ ign ++ 0xEE#8) a))

/-- R97, R103: the two jumps; the offset register of JP V0 is V0 on both variants and the sum does not wrap. -/
def Obligations.JumpsSetPc : Prop :=
  ∀ (s : State) (nnn : Addr12),
    decode (0x1#4 ++ nnn) = some (.jp nnn) ∧ decode (0xB#4 ++ nnn) = some (.jpV0 nnn) ∧
    (∃ t, exec (.jp nnn) s = .next t ∧ changesOnlyPc s t ∧ t.pc.toNat = nnn.toNat) ∧
    (∃ t, exec (.jpV0 nnn) s = .next t ∧ changesOnlyPc s t ∧ t.pc.toNat = nnn.toNat + (s.getV 0x0#4).toNat)

/-- R98: CALL pushes PC (the address after it) and jumps; on a full stack it faults, writes no entry and does not jump. -/
def Obligations.CallPushesOrFaults : Prop :=
  ∀ (s : State) (nnn : Addr12),
    decode (0x2#4 ++ nnn) = some (.call nnn) ∧
    (s.sp.val < 16 → ∃ t, exec (.call nnn) s = .next t ∧
      t = { s with pc := t.pc, sp := t.sp, stack := t.stack } ∧ sameMemory s t ∧
      t.pc.toNat = nnn.toNat ∧ t.sp.val = s.sp.val + 1 ∧
      ∀ k : Fin 16, t.stack[k] = if k.val = s.sp.val then s.pc else s.stack[k]) ∧
    (∀ a : Word, s.sp.val = 16 → s.pc = a + 2#16 →
      exec (.call nnn) s = .next (afterFault s .stackFull (0x2#4 ++ nnn) a))

/-- R99, R100: SE Vx, NN and SNE Vx, NN add a further 2 to PC, modulo 65536, when their condition holds. -/
def Obligations.SkipsOnImmediate : Prop :=
  ∀ (s : State) (x : Nibble) (nn : Byte),
    decode (0x3#4 ++ x ++ nn) = some (.seImm x nn) ∧ decode (0x4#4 ++ x ++ nn) = some (.sneImm x nn) ∧
    (∃ t, exec (.seImm x nn) s = .next t ∧ changesOnlyPc s t ∧
      t.pc.toNat = if s.getV x = nn then (s.pc.toNat + 2) % 65536 else s.pc.toNat) ∧
    (∃ t, exec (.sneImm x nn) s = .next t ∧ changesOnlyPc s t ∧
      t.pc.toNat = if s.getV x = nn then s.pc.toNat else (s.pc.toNat + 2) % 65536)

/-- R101, R102: SE Vx, Vy and SNE Vx, Vy, whatever their low nibble. -/
def Obligations.SkipsOnRegisters : Prop :=
  ∀ (s : State) (x y ign : Nibble),
    decode (0x5#4 ++ x ++ y ++ ign) = some (.seReg x y ign) ∧
    decode (0x9#4 ++ x ++ y ++ ign) = some (.sneReg x y ign) ∧
    (∃ t, exec (.seReg x y ign) s = .next t ∧ changesOnlyPc s t ∧
      t.pc.toNat = if s.getV x = s.getV y then (s.pc.toNat + 2) % 65536 else s.pc.toNat) ∧
    (∃ t, exec (.sneReg x y ign) s = .next t ∧ changesOnlyPc s t ∧
      t.pc.toNat = if s.getV x = s.getV y then s.pc.toNat else (s.pc.toNat + 2) % 65536)

/-! ### Register loads and the ALU instructions -/

/-- R115, R117: LD Vx, NN and LD Vx, Vy; no flag, VF is a register like any other. -/
def Obligations.LoadsRegister : Prop :=
  ∀ (s : State) (x y : Nibble) (nn : Byte),
    decode (0x6#4 ++ x ++ nn) = some (.ldImm x nn) ∧ decode (0x8#4 ++ x ++ y ++ 0x0#4) = some (.ldReg x y) ∧
    (∃ t, exec (.ldImm x nn) s = .next t ∧ changesOnlyV s t ∧ registerBecomes s t x nn.toNat) ∧
    (∃ t, exec (.ldReg x y) s = .next t ∧ changesOnlyV s t ∧ registerBecomes s t x (s.getV y).toNat)

/-- R116: ADD Vx, NN adds modulo 256 and touches no flag. -/
def Obligations.AddImmediateNoFlag : Prop :=
  ∀ (s : State) (x : Nibble) (nn : Byte),
    decode (0x7#4 ++ x ++ nn) = some (.addImm x nn) ∧
    ∃ t, exec (.addImm x nn) s = .next t ∧ changesOnlyV s t ∧
      registerBecomes s t x (((s.getV x).toNat + nn.toNat) % 256)

/-- R118 to R120: OR, AND and XOR; VF is cleared last on CHIP8 and untouched (unless it is the destination) on
SUPERCHIP. -/
def Obligations.LogicOperations : Prop :=
  ∀ (s : State) (x y : Nibble),
    decode (0x8#4 ++ x ++ y ++ 0x1#4) = some (.or x y) ∧ decode (0x8#4 ++ x ++ y ++ 0x2#4) = some (.and x y) ∧
    decode (0x8#4 ++ x ++ y ++ 0x3#4) = some (.xor x y) ∧
    (s.variant = .chip8 →
      (∃ t, exec (.or x y) s = .next t ∧ changesOnlyV s t ∧
        resultThenFlag s t x (s.getV x ||| s.getV y).toNat 0) ∧
      (∃ t, exec (.and x y) s = .next t ∧ changesOnlyV s t ∧
        resultThenFlag s t x (s.getV x &&& s.getV y).toNat 0) ∧
      (∃ t, exec (.xor x y) s = .next t ∧ changesOnlyV s t ∧
        resultThenFlag s t x (s.getV x ^^^ s.getV y).toNat 0)) ∧
    (s.variant = .superchip →
      (∃ t, exec (.or x y) s = .next t ∧ changesOnlyV s t ∧
        registerBecomes s t x (s.getV x ||| s.getV y).toNat) ∧
      (∃ t, exec (.and x y) s = .next t ∧ changesOnlyV s t ∧
        registerBecomes s t x (s.getV x &&& s.getV y).toNat) ∧
      (∃ t, exec (.xor x y) s = .next t ∧ changesOnlyV s t ∧
        registerBecomes s t x (s.getV x ^^^ s.getV y).toNat))

/-- R121: ADD Vx, Vy, the sum modulo 256 and then the carry in VF. -/
def Obligations.AddRegistersCarry : Prop :=
  ∀ (s : State) (x y : Nibble),
    decode (0x8#4 ++ x ++ y ++ 0x4#4) = some (.addReg x y) ∧
    ∃ t, exec (.addReg x y) s = .next t ∧ changesOnlyV s t ∧
      resultThenFlag s t x (((s.getV x).toNat + (s.getV y).toNat) % 256)
        (if 255 < (s.getV x).toNat + (s.getV y).toNat then 1 else 0)

/-- R122, R124: SUB and SUBN, the difference modulo 256 and then 1 in VF if there was no borrow. -/
def Obligations.SubtractionsNoBorrow : Prop :=
  ∀ (s : State) (x y : Nibble),
    decode (0x8#4 ++ x ++ y ++ 0x5#4) = some (.sub x y) ∧ decode (0x8#4 ++ x ++ y ++ 0x7#4) = some (.subn x y) ∧
    (∃ t, exec (.sub x y) s = .next t ∧ changesOnlyV s t ∧
      resultThenFlag s t x ((256 + (s.getV x).toNat - (s.getV y).toNat) % 256)
        (if (s.getV y).toNat ≤ (s.getV x).toNat then 1 else 0)) ∧
    (∃ t, exec (.subn x y) s = .next t ∧ changesOnlyV s t ∧
      resultThenFlag s t x ((256 + (s.getV y).toNat - (s.getV x).toNat) % 256)
        (if (s.getV x).toNat ≤ (s.getV y).toNat then 1 else 0))

/-- R123, R125: SHR and SHL by one place of V[y] on CHIP8 and of V[x] on SUPERCHIP, filled with 0, and then the bit
shifted out in VF. -/
def Obligations.ShiftsByOne : Prop :=
  ∀ (s : State) (x y src : Nibble),
    decode (0x8#4 ++ x ++ y ++ 0x6#4) = some (.shr x y) ∧ decode (0x8#4 ++ x ++ y ++ 0xE#4) = some (.shl x y) ∧
    (src = (if s.variant = .chip8 then y else x) →
      (∃ t, exec (.shr x y) s = .next t ∧ changesOnlyV s t ∧
        resultThenFlag s t x ((s.getV src).toNat / 2) ((s.getV src).toNat % 2)) ∧
      (∃ t, exec (.shl x y) s = .next t ∧ changesOnlyV s t ∧
        resultThenFlag s t x (2 * (s.getV src).toNat % 256) ((s.getV src).toNat / 128)))

/-- R129: RND stores the cycle's `rand_byte` AND the mask, for every `rand_byte`; bits outside the mask are 0. -/
def Obligations.RandomByteMasked : Prop :=
  ∀ (s : State) (x : Nibble) (nn : Byte),
    decode (0xC#4 ++ x ++ nn) = some (.rnd x nn) ∧
    ∃ t, exec (.rnd x nn) s = .next t ∧ changesOnlyV s t ∧
      (∀ k, k < 8 → (t.getV x).getLsbD k = (s.randByte.getLsbD k && nn.getLsbD k)) ∧
      ∀ q : Nibble, q ≠ x → t.getV q = s.getV q

/-! ### The address register and memory -/

/-- R135, R136: LD I, NNN and ADD I, Vx; 16-bit, no flag, no mask to 12 bits, no fault. -/
def Obligations.AddressRegisterWrites : Prop :=
  ∀ (s : State) (x : Nibble) (nnn : Addr12),
    decode (0xA#4 ++ nnn) = some (.ldI nnn) ∧ decode (0xF#4 ++ x ++ 0x1E#8) = some (.addIVx x) ∧
    (∃ t, exec (.ldI nnn) s = .next t ∧ changesOnlyI s t ∧ t.i.toNat = nnn.toNat) ∧
    (∃ t, exec (.addIVx x) s = .next t ∧ changesOnlyI s t ∧
      t.i.toNat = (s.i.toNat + (s.getV x).toNat) % 65536)

/-- R139, R183: LD F, Vx always raises Unimplemented, whatever V[x] and the variant; I is not changed. -/
def Obligations.FontInstructionFaults : Prop :=
  ∀ (s : State) (x : Nibble) (a : Word),
    decode (0xF#4 ++ x ++ 0x29#8) = some (.ldFVx x) ∧
    (s.pc = a + 2#16 → exec (.ldFVx x) s = .next (afterFault s .unimplemented (0xF#4 ++ x ++ 0x29#8) a))

/-- R140: LD B, Vx stores the hundreds, tens and units digit at I, I + 1 and I + 2, and every other byte and all else is
as before; if I + 2 > 4095 it faults and writes nothing. -/
def Obligations.BcdStoredOrFaults : Prop :=
  ∀ (s : State) (x : Nibble), s.mem.wf = true →
    decode (0xF#4 ++ x ++ 0x33#8) = some (.ldBVx x) ∧
    (s.i.toNat + 2 ≤ 4095 → ∃ t, exec (.ldBVx x) s = .next t ∧ t = { s with mem := t.mem } ∧
      (t.mem.read s.i.toNat).toNat = (s.getV x).toNat / 100 ∧
      (t.mem.read (s.i.toNat + 1)).toNat = (s.getV x).toNat / 10 % 10 ∧
      (t.mem.read (s.i.toNat + 2)).toNat = (s.getV x).toNat % 10 ∧
      ∀ a : Nat, a < s.i.toNat ∨ s.i.toNat + 2 < a → t.mem.read a = s.mem.read a) ∧
    (∀ a : Word, 4095 < s.i.toNat + 2 → s.pc = a + 2#16 →
      exec (.ldBVx x) s = .next (afterFault s .memoryOutOfBounds (0xF#4 ++ x ++ 0x33#8) a))

/-- R141: LD [I], Vx stores V[0] to V[x] at I to I + x, adds x + 1 to I on CHIP8 only, and leaves every other byte and all
else as before; if I + x > 4095 it faults and changes neither memory nor I. -/
def Obligations.RegisterDumpOrFaults : Prop :=
  ∀ (s : State) (x : Nibble), s.mem.wf = true →
    decode (0xF#4 ++ x ++ 0x55#8) = some (.ldMemVx x) ∧
    (s.i.toNat + x.toNat ≤ 4095 → ∃ t, exec (.ldMemVx x) s = .next t ∧ t = { s with mem := t.mem, i := t.i } ∧
      (∀ r : Nibble, r.toNat ≤ x.toNat → t.mem.read (s.i.toNat + r.toNat) = s.getV r) ∧
      (∀ a : Nat, a < s.i.toNat ∨ s.i.toNat + x.toNat < a → t.mem.read a = s.mem.read a) ∧
      (s.variant = .chip8 → t.i.toNat = (s.i.toNat + x.toNat + 1) % 65536) ∧
      (s.variant = .superchip → t.i = s.i)) ∧
    (∀ a : Word, 4095 < s.i.toNat + x.toNat → s.pc = a + 2#16 →
      exec (.ldMemVx x) s = .next (afterFault s .memoryOutOfBounds (0xF#4 ++ x ++ 0x55#8) a))

/-- R142: LD Vx, [I] loads V[0] to V[x] from I to I + x, keeps the registers above x, adds x + 1 to I on CHIP8 only, and
leaves memory and all else as before; if I + x > 4095 it faults and changes no register and not I. -/
def Obligations.RegisterLoadOrFaults : Prop :=
  ∀ (s : State) (x : Nibble),
    decode (0xF#4 ++ x ++ 0x65#8) = some (.ldVxMem x) ∧
    (s.i.toNat + x.toNat ≤ 4095 → ∃ t, exec (.ldVxMem x) s = .next t ∧ t = { s with v := t.v, i := t.i } ∧
      sameMemory s t ∧
      (∀ r : Nibble, t.getV r = if r.toNat ≤ x.toNat then s.mem.read (s.i.toNat + r.toNat) else s.getV r) ∧
      (s.variant = .chip8 → t.i.toNat = (s.i.toNat + x.toNat + 1) % 65536) ∧
      (s.variant = .superchip → t.i = s.i)) ∧
    (∀ a : Word, 4095 < s.i.toNat + x.toNat → s.pc = a + 2#16 →
      exec (.ldVxMem x) s = .next (afterFault s .memoryOutOfBounds (0xF#4 ++ x ++ 0x65#8) a))

/-! ### Display, timers and keys -/

/-- R152: CLS clears all 2048 pixels and changes nothing else, VF included. -/
def Obligations.ClsClearsScreen : Prop :=
  ∀ (s : State) (ign : Nibble),
    decode (0x0#4 ++ ign ++ 0xE0#8) = some (.cls ign) ∧
    ∃ t, exec (.cls ign) s = .next t ∧ t = { s with fb := t.fb } ∧ sameMemory s t ∧
      ∀ x y : Nat, x < 64 → y < 32 → t.fb.pixel x y = false

/-- R153: DRW reads its N rows at I, inverts the pixels under the sprite's 1 bits at the full 8-bit coordinates V[x], V[y]
(old VF if VF is named), sets VF to 1 exactly when a set pixel was cleared, and changes nothing else; if N > 0 and
I + N − 1 > 4095 it faults and draws nothing. N = 0 never faults. -/
def Obligations.SpriteDrawOrFaults : Prop :=
  ∀ (s : State) (x y n : Nibble),
    decode (0xD#4 ++ x ++ y ++ n) = some (.drw x y n) ∧
    (n.toNat = 0 ∨ s.i.toNat + n.toNat - 1 ≤ 4095 → ∃ t rows, exec (.drw x y n) s = .next t ∧
      rows.length = n.toNat ∧ (∀ k, k < n.toNat → rows.getD k 0#8 = s.mem.read (s.i.toNat + k)) ∧
      t = { s with v := t.v, fb := t.fb } ∧ sameMemory s t ∧
      (∀ px py : Nat, px < 64 → py < 32 →
        t.fb.pixel px py = (s.fb.pixel px py ^^ spriteBit (s.getV x) (s.getV y) rows px py)) ∧
      (t.getV 0xF#4 = 0#8 ∨ t.getV 0xF#4 = 1#8) ∧
      (t.getV 0xF#4 = 1#8 ↔ ∃ px py : Nat, px < 64 ∧ py < 32 ∧
        spriteBit (s.getV x) (s.getV y) rows px py = true ∧ s.fb.pixel px py = true) ∧
      ∀ q : Nibble, q ≠ 0xF#4 → t.getV q = s.getV q) ∧
    (∀ a : Word, 0 < n.toNat → 4095 < s.i.toNat + n.toNat - 1 → s.pc = a + 2#16 →
      exec (.drw x y n) s = .next (afterFault s .memoryOutOfBounds (0xD#4 ++ x ++ y ++ n) a))

/-- R165 to R167: LD Vx, DT; LD DT, Vx; LD ST, Vx. In a cycle the read gives the timer after the cycle's tick, and the
value written is not decremented. -/
def Obligations.TimerMoves : Prop :=
  ∀ (s : State) (x : Nibble),
    decode (0xF#4 ++ x ++ 0x07#8) = some (.ldVxDt x) ∧ decode (0xF#4 ++ x ++ 0x15#8) = some (.ldDtVx x) ∧
    decode (0xF#4 ++ x ++ 0x18#8) = some (.ldStVx x) ∧
    (∃ t, exec (.ldVxDt x) s = .next t ∧ changesOnlyV s t ∧ registerBecomes s t x s.dt.toNat) ∧
    (∃ t, exec (.ldDtVx x) s = .next t ∧ t = { s with dt := s.getV x } ∧ sameMemory s t) ∧
    (∃ t, exec (.ldStVx x) s = .next t ∧ t = { s with st := s.getV x } ∧ sameMemory s t) ∧
    (s.status = .running →
      (s.fetch = some (0xF#4 ++ x ++ 0x07#8) → ∃ t, s.cycle = .next t ∧
        (t.getV x).toNat = if s.tickDue then s.dt.toNat - 1 else s.dt.toNat) ∧
      (s.fetch = some (0xF#4 ++ x ++ 0x15#8) → ∃ t, s.cycle = .next t ∧ t.dt = s.getV x) ∧
      (s.fetch = some (0xF#4 ++ x ++ 0x18#8) → ∃ t, s.cycle = .next t ∧ t.st = s.getV x))

/-- R168, R169, R171: SKP and SKNP skip on the key numbered V[x], down or up; above 15 they fault, and the value is not
masked. -/
def Obligations.KeySkipsOrFault : Prop :=
  ∀ (s : State) (x : Nibble),
    decode (0xE#4 ++ x ++ 0x9E#8) = some (.skp x) ∧ decode (0xE#4 ++ x ++ 0xA1#8) = some (.sknp x) ∧
    ((s.getV x).toNat ≤ 15 →
      (∃ t, exec (.skp x) s = .next t ∧ changesOnlyPc s t ∧
        t.pc.toNat = if s.keys.getLsbD (s.getV x).toNat then (s.pc.toNat + 2) % 65536 else s.pc.toNat) ∧
      (∃ t, exec (.sknp x) s = .next t ∧ changesOnlyPc s t ∧
        t.pc.toNat = if s.keys.getLsbD (s.getV x).toNat then s.pc.toNat else (s.pc.toNat + 2) % 65536)) ∧
    (∀ a : Word, 15 < (s.getV x).toNat → s.pc = a + 2#16 →
      exec (.skp x) s = .next (afterFault s .badKeyIndex (0xE#4 ++ x ++ 0x9E#8) a) ∧
      exec (.sknp x) s = .next (afterFault s .badKeyIndex (0xE#4 ++ x ++ 0xA1#8) a))

/-- R170: LD Vx, K takes the least key that is down, or goes back to its own address a when none is. -/
def Obligations.WaitForKey : Prop :=
  ∀ (s : State) (x : Nibble),
    decode (0xF#4 ++ x ++ 0x0A#8) = some (.ldVxK x) ∧
    (∀ a : Word, s.keys = 0#16 → s.pc = a + 2#16 → ∃ t, exec (.ldVxK x) s = .next t ∧
      changesOnlyPc s t ∧ t.pc = a) ∧
    (∀ k : Nat, k < 16 → s.keys.getLsbD k = true → (∀ j, j < k → s.keys.getLsbD j = false) →
      ∃ t, exec (.ldVxK x) s = .next t ∧ changesOnlyV s t ∧ registerBecomes s t x k)
end

