-- ==== Sys2Proof/Laws/State.lean ====
section
/-! SUPPORT. What each named update of State does to each field, so that no proof unfolds an update. -/

namespace Sys2Proof.Machine

variable (s : State)

@[simp] theorem setV_v (x : Nibble) (b : Byte) : (s.setV x b).v = s.v.set x.toNat b := rfl
@[simp] theorem setV_i (x : Nibble) (b : Byte) : (s.setV x b).i = s.i := rfl
@[simp] theorem setV_pc (x : Nibble) (b : Byte) : (s.setV x b).pc = s.pc := rfl
@[simp] theorem setV_sp (x : Nibble) (b : Byte) : (s.setV x b).sp = s.sp := rfl
@[simp] theorem setV_stack (x : Nibble) (b : Byte) : (s.setV x b).stack = s.stack := rfl
@[simp] theorem setV_mem (x : Nibble) (b : Byte) : (s.setV x b).mem = s.mem := rfl
@[simp] theorem setV_fb (x : Nibble) (b : Byte) : (s.setV x b).fb = s.fb := rfl
@[simp] theorem setV_dt (x : Nibble) (b : Byte) : (s.setV x b).dt = s.dt := rfl
@[simp] theorem setV_st (x : Nibble) (b : Byte) : (s.setV x b).st = s.st := rfl
@[simp] theorem setV_keys (x : Nibble) (b : Byte) : (s.setV x b).keys = s.keys := rfl
@[simp] theorem setV_variant (x : Nibble) (b : Byte) : (s.setV x b).variant = s.variant := rfl
@[simp] theorem setV_status (x : Nibble) (b : Byte) : (s.setV x b).status = s.status := rfl
@[simp] theorem setV_faultKind (x : Nibble) (b : Byte) : (s.setV x b).faultKind = s.faultKind := rfl
@[simp] theorem setV_faultOpcode (x : Nibble) (b : Byte) : (s.setV x b).faultOpcode = s.faultOpcode := rfl
@[simp] theorem setV_faultPc (x : Nibble) (b : Byte) : (s.setV x b).faultPc = s.faultPc := rfl
@[simp] theorem setV_tickDue (x : Nibble) (b : Byte) : (s.setV x b).tickDue = s.tickDue := rfl
@[simp] theorem setV_randByte (x : Nibble) (b : Byte) : (s.setV x b).randByte = s.randByte := rfl
@[simp] theorem setV_cycles (x : Nibble) (b : Byte) : (s.setV x b).cycles = s.cycles := rfl

@[simp] theorem setI_v (w : Word) : (s.setI w).v = s.v := rfl
@[simp] theorem setI_i (w : Word) : (s.setI w).i = w := rfl
@[simp] theorem setI_pc (w : Word) : (s.setI w).pc = s.pc := rfl
@[simp] theorem setI_sp (w : Word) : (s.setI w).sp = s.sp := rfl
@[simp] theorem setI_stack (w : Word) : (s.setI w).stack = s.stack := rfl
@[simp] theorem setI_mem (w : Word) : (s.setI w).mem = s.mem := rfl
@[simp] theorem setI_fb (w : Word) : (s.setI w).fb = s.fb := rfl
@[simp] theorem setI_dt (w : Word) : (s.setI w).dt = s.dt := rfl
@[simp] theorem setI_st (w : Word) : (s.setI w).st = s.st := rfl
@[simp] theorem setI_keys (w : Word) : (s.setI w).keys = s.keys := rfl
@[simp] theorem setI_variant (w : Word) : (s.setI w).variant = s.variant := rfl
@[simp] theorem setI_status (w : Word) : (s.setI w).status = s.status := rfl
@[simp] theorem setI_faultKind (w : Word) : (s.setI w).faultKind = s.faultKind := rfl
@[simp] theorem setI_faultOpcode (w : Word) : (s.setI w).faultOpcode = s.faultOpcode := rfl
@[simp] theorem setI_faultPc (w : Word) : (s.setI w).faultPc = s.faultPc := rfl
@[simp] theorem setI_tickDue (w : Word) : (s.setI w).tickDue = s.tickDue := rfl
@[simp] theorem setI_randByte (w : Word) : (s.setI w).randByte = s.randByte := rfl
@[simp] theorem setI_cycles (w : Word) : (s.setI w).cycles = s.cycles := rfl

@[simp] theorem setPc_v (w : Word) : (s.setPc w).v = s.v := rfl
@[simp] theorem setPc_i (w : Word) : (s.setPc w).i = s.i := rfl
@[simp] theorem setPc_pc (w : Word) : (s.setPc w).pc = w := rfl
@[simp] theorem setPc_sp (w : Word) : (s.setPc w).sp = s.sp := rfl
@[simp] theorem setPc_stack (w : Word) : (s.setPc w).stack = s.stack := rfl
@[simp] theorem setPc_mem (w : Word) : (s.setPc w).mem = s.mem := rfl
@[simp] theorem setPc_fb (w : Word) : (s.setPc w).fb = s.fb := rfl
@[simp] theorem setPc_dt (w : Word) : (s.setPc w).dt = s.dt := rfl
@[simp] theorem setPc_st (w : Word) : (s.setPc w).st = s.st := rfl
@[simp] theorem setPc_keys (w : Word) : (s.setPc w).keys = s.keys := rfl
@[simp] theorem setPc_variant (w : Word) : (s.setPc w).variant = s.variant := rfl
@[simp] theorem setPc_status (w : Word) : (s.setPc w).status = s.status := rfl
@[simp] theorem setPc_faultKind (w : Word) : (s.setPc w).faultKind = s.faultKind := rfl
@[simp] theorem setPc_faultOpcode (w : Word) : (s.setPc w).faultOpcode = s.faultOpcode := rfl
@[simp] theorem setPc_faultPc (w : Word) : (s.setPc w).faultPc = s.faultPc := rfl
@[simp] theorem setPc_tickDue (w : Word) : (s.setPc w).tickDue = s.tickDue := rfl
@[simp] theorem setPc_randByte (w : Word) : (s.setPc w).randByte = s.randByte := rfl
@[simp] theorem setPc_cycles (w : Word) : (s.setPc w).cycles = s.cycles := rfl

@[simp] theorem advancePc_v : (s.advancePc).v = s.v := rfl
@[simp] theorem advancePc_i : (s.advancePc).i = s.i := rfl
@[simp] theorem advancePc_pc : (s.advancePc).pc = s.pc + 2#16 := rfl
@[simp] theorem advancePc_sp : (s.advancePc).sp = s.sp := rfl
@[simp] theorem advancePc_stack : (s.advancePc).stack = s.stack := rfl
@[simp] theorem advancePc_mem : (s.advancePc).mem = s.mem := rfl
@[simp] theorem advancePc_fb : (s.advancePc).fb = s.fb := rfl
@[simp] theorem advancePc_dt : (s.advancePc).dt = s.dt := rfl
@[simp] theorem advancePc_st : (s.advancePc).st = s.st := rfl
@[simp] theorem advancePc_keys : (s.advancePc).keys = s.keys := rfl
@[simp] theorem advancePc_variant : (s.advancePc).variant = s.variant := rfl
@[simp] theorem advancePc_status : (s.advancePc).status = s.status := rfl
@[simp] theorem advancePc_faultKind : (s.advancePc).faultKind = s.faultKind := rfl
@[simp] theorem advancePc_faultOpcode : (s.advancePc).faultOpcode = s.faultOpcode := rfl
@[simp] theorem advancePc_faultPc : (s.advancePc).faultPc = s.faultPc := rfl
@[simp] theorem advancePc_tickDue : (s.advancePc).tickDue = s.tickDue := rfl
@[simp] theorem advancePc_randByte : (s.advancePc).randByte = s.randByte := rfl
@[simp] theorem advancePc_cycles : (s.advancePc).cycles = s.cycles := rfl

@[simp] theorem setFb_v (fb : Framebuffer) : (s.setFb fb).v = s.v := rfl
@[simp] theorem setFb_i (fb : Framebuffer) : (s.setFb fb).i = s.i := rfl
@[simp] theorem setFb_pc (fb : Framebuffer) : (s.setFb fb).pc = s.pc := rfl
@[simp] theorem setFb_sp (fb : Framebuffer) : (s.setFb fb).sp = s.sp := rfl
@[simp] theorem setFb_stack (fb : Framebuffer) : (s.setFb fb).stack = s.stack := rfl
@[simp] theorem setFb_mem (fb : Framebuffer) : (s.setFb fb).mem = s.mem := rfl
@[simp] theorem setFb_fb (fb : Framebuffer) : (s.setFb fb).fb = fb := rfl
@[simp] theorem setFb_dt (fb : Framebuffer) : (s.setFb fb).dt = s.dt := rfl
@[simp] theorem setFb_st (fb : Framebuffer) : (s.setFb fb).st = s.st := rfl
@[simp] theorem setFb_keys (fb : Framebuffer) : (s.setFb fb).keys = s.keys := rfl
@[simp] theorem setFb_variant (fb : Framebuffer) : (s.setFb fb).variant = s.variant := rfl
@[simp] theorem setFb_status (fb : Framebuffer) : (s.setFb fb).status = s.status := rfl
@[simp] theorem setFb_faultKind (fb : Framebuffer) : (s.setFb fb).faultKind = s.faultKind := rfl
@[simp] theorem setFb_faultOpcode (fb : Framebuffer) : (s.setFb fb).faultOpcode = s.faultOpcode := rfl
@[simp] theorem setFb_faultPc (fb : Framebuffer) : (s.setFb fb).faultPc = s.faultPc := rfl
@[simp] theorem setFb_tickDue (fb : Framebuffer) : (s.setFb fb).tickDue = s.tickDue := rfl
@[simp] theorem setFb_randByte (fb : Framebuffer) : (s.setFb fb).randByte = s.randByte := rfl
@[simp] theorem setFb_cycles (fb : Framebuffer) : (s.setFb fb).cycles = s.cycles := rfl

@[simp] theorem setDt_v (b : Byte) : (s.setDt b).v = s.v := rfl
@[simp] theorem setDt_i (b : Byte) : (s.setDt b).i = s.i := rfl
@[simp] theorem setDt_pc (b : Byte) : (s.setDt b).pc = s.pc := rfl
@[simp] theorem setDt_sp (b : Byte) : (s.setDt b).sp = s.sp := rfl
@[simp] theorem setDt_stack (b : Byte) : (s.setDt b).stack = s.stack := rfl
@[simp] theorem setDt_mem (b : Byte) : (s.setDt b).mem = s.mem := rfl
@[simp] theorem setDt_fb (b : Byte) : (s.setDt b).fb = s.fb := rfl
@[simp] theorem setDt_dt (b : Byte) : (s.setDt b).dt = b := rfl
@[simp] theorem setDt_st (b : Byte) : (s.setDt b).st = s.st := rfl
@[simp] theorem setDt_keys (b : Byte) : (s.setDt b).keys = s.keys := rfl
@[simp] theorem setDt_variant (b : Byte) : (s.setDt b).variant = s.variant := rfl
@[simp] theorem setDt_status (b : Byte) : (s.setDt b).status = s.status := rfl
@[simp] theorem setDt_faultKind (b : Byte) : (s.setDt b).faultKind = s.faultKind := rfl
@[simp] theorem setDt_faultOpcode (b : Byte) : (s.setDt b).faultOpcode = s.faultOpcode := rfl
@[simp] theorem setDt_faultPc (b : Byte) : (s.setDt b).faultPc = s.faultPc := rfl
@[simp] theorem setDt_tickDue (b : Byte) : (s.setDt b).tickDue = s.tickDue := rfl
@[simp] theorem setDt_randByte (b : Byte) : (s.setDt b).randByte = s.randByte := rfl
@[simp] theorem setDt_cycles (b : Byte) : (s.setDt b).cycles = s.cycles := rfl

@[simp] theorem setSt_v (b : Byte) : (s.setSt b).v = s.v := rfl
@[simp] theorem setSt_i (b : Byte) : (s.setSt b).i = s.i := rfl
@[simp] theorem setSt_pc (b : Byte) : (s.setSt b).pc = s.pc := rfl
@[simp] theorem setSt_sp (b : Byte) : (s.setSt b).sp = s.sp := rfl
@[simp] theorem setSt_stack (b : Byte) : (s.setSt b).stack = s.stack := rfl
@[simp] theorem setSt_mem (b : Byte) : (s.setSt b).mem = s.mem := rfl
@[simp] theorem setSt_fb (b : Byte) : (s.setSt b).fb = s.fb := rfl
@[simp] theorem setSt_dt (b : Byte) : (s.setSt b).dt = s.dt := rfl
@[simp] theorem setSt_st (b : Byte) : (s.setSt b).st = b := rfl
@[simp] theorem setSt_keys (b : Byte) : (s.setSt b).keys = s.keys := rfl
@[simp] theorem setSt_variant (b : Byte) : (s.setSt b).variant = s.variant := rfl
@[simp] theorem setSt_status (b : Byte) : (s.setSt b).status = s.status := rfl
@[simp] theorem setSt_faultKind (b : Byte) : (s.setSt b).faultKind = s.faultKind := rfl
@[simp] theorem setSt_faultOpcode (b : Byte) : (s.setSt b).faultOpcode = s.faultOpcode := rfl
@[simp] theorem setSt_faultPc (b : Byte) : (s.setSt b).faultPc = s.faultPc := rfl
@[simp] theorem setSt_tickDue (b : Byte) : (s.setSt b).tickDue = s.tickDue := rfl
@[simp] theorem setSt_randByte (b : Byte) : (s.setSt b).randByte = s.randByte := rfl
@[simp] theorem setSt_cycles (b : Byte) : (s.setSt b).cycles = s.cycles := rfl

@[simp] theorem tickTimers_v : (s.tickTimers).v = s.v := rfl
@[simp] theorem tickTimers_i : (s.tickTimers).i = s.i := rfl
@[simp] theorem tickTimers_pc : (s.tickTimers).pc = s.pc := rfl
@[simp] theorem tickTimers_sp : (s.tickTimers).sp = s.sp := rfl
@[simp] theorem tickTimers_stack : (s.tickTimers).stack = s.stack := rfl
@[simp] theorem tickTimers_mem : (s.tickTimers).mem = s.mem := rfl
@[simp] theorem tickTimers_fb : (s.tickTimers).fb = s.fb := rfl
@[simp] theorem tickTimers_dt : (s.tickTimers).dt = tickDown s.tickDue s.dt := rfl
@[simp] theorem tickTimers_st : (s.tickTimers).st = tickDown s.tickDue s.st := rfl
@[simp] theorem tickTimers_keys : (s.tickTimers).keys = s.keys := rfl
@[simp] theorem tickTimers_variant : (s.tickTimers).variant = s.variant := rfl
@[simp] theorem tickTimers_status : (s.tickTimers).status = s.status := rfl
@[simp] theorem tickTimers_faultKind : (s.tickTimers).faultKind = s.faultKind := rfl
@[simp] theorem tickTimers_faultOpcode : (s.tickTimers).faultOpcode = s.faultOpcode := rfl
@[simp] theorem tickTimers_faultPc : (s.tickTimers).faultPc = s.faultPc := rfl
@[simp] theorem tickTimers_tickDue : (s.tickTimers).tickDue = s.tickDue := rfl
@[simp] theorem tickTimers_randByte : (s.tickTimers).randByte = s.randByte := rfl
@[simp] theorem tickTimers_cycles : (s.tickTimers).cycles = s.cycles := rfl

@[simp] theorem faultEntry_v (k : FaultKind) (op a : Word) : (s.faultEntry k op a).v = s.v := rfl
@[simp] theorem faultEntry_i (k : FaultKind) (op a : Word) : (s.faultEntry k op a).i = s.i := rfl
@[simp] theorem faultEntry_pc (k : FaultKind) (op a : Word) : (s.faultEntry k op a).pc = s.pc := rfl
@[simp] theorem faultEntry_sp (k : FaultKind) (op a : Word) : (s.faultEntry k op a).sp = s.sp := rfl
@[simp] theorem faultEntry_stack (k : FaultKind) (op a : Word) : (s.faultEntry k op a).stack = s.stack := rfl
@[simp] theorem faultEntry_mem (k : FaultKind) (op a : Word) : (s.faultEntry k op a).mem = s.mem := rfl
@[simp] theorem faultEntry_fb (k : FaultKind) (op a : Word) : (s.faultEntry k op a).fb = s.fb := rfl
@[simp] theorem faultEntry_dt (k : FaultKind) (op a : Word) : (s.faultEntry k op a).dt = s.dt := rfl
@[simp] theorem faultEntry_st (k : FaultKind) (op a : Word) : (s.faultEntry k op a).st = s.st := rfl
@[simp] theorem faultEntry_keys (k : FaultKind) (op a : Word) : (s.faultEntry k op a).keys = s.keys := rfl
@[simp] theorem faultEntry_variant (k : FaultKind) (op a : Word) : (s.faultEntry k op a).variant = s.variant := rfl
@[simp] theorem faultEntry_status (k : FaultKind) (op a : Word) : (s.faultEntry k op a).status = .faulted := rfl
@[simp] theorem faultEntry_faultKind (k : FaultKind) (op a : Word) : (s.faultEntry k op a).faultKind = k := rfl
@[simp] theorem faultEntry_faultOpcode (k : FaultKind) (op a : Word) : (s.faultEntry k op a).faultOpcode = op := rfl
@[simp] theorem faultEntry_faultPc (k : FaultKind) (op a : Word) : (s.faultEntry k op a).faultPc = a := rfl
@[simp] theorem faultEntry_tickDue (k : FaultKind) (op a : Word) : (s.faultEntry k op a).tickDue = s.tickDue := rfl
@[simp] theorem faultEntry_randByte (k : FaultKind) (op a : Word) : (s.faultEntry k op a).randByte = s.randByte := rfl
@[simp] theorem faultEntry_cycles (k : FaultKind) (op a : Word) : (s.faultEntry k op a).cycles = s.cycles := rfl

@[simp] theorem setKey_v (k : Nibble) (p : Bool) : (s.setKey k p).v = s.v := rfl
@[simp] theorem setKey_i (k : Nibble) (p : Bool) : (s.setKey k p).i = s.i := rfl
@[simp] theorem setKey_pc (k : Nibble) (p : Bool) : (s.setKey k p).pc = s.pc := rfl
@[simp] theorem setKey_sp (k : Nibble) (p : Bool) : (s.setKey k p).sp = s.sp := rfl
@[simp] theorem setKey_stack (k : Nibble) (p : Bool) : (s.setKey k p).stack = s.stack := rfl
@[simp] theorem setKey_mem (k : Nibble) (p : Bool) : (s.setKey k p).mem = s.mem := rfl
@[simp] theorem setKey_fb (k : Nibble) (p : Bool) : (s.setKey k p).fb = s.fb := rfl
@[simp] theorem setKey_dt (k : Nibble) (p : Bool) : (s.setKey k p).dt = s.dt := rfl
@[simp] theorem setKey_st (k : Nibble) (p : Bool) : (s.setKey k p).st = s.st := rfl
@[simp] theorem setKey_keys (k : Nibble) (p : Bool) : (s.setKey k p).keys = setKeyBit s.keys k p := rfl
@[simp] theorem setKey_variant (k : Nibble) (p : Bool) : (s.setKey k p).variant = s.variant := rfl
@[simp] theorem setKey_status (k : Nibble) (p : Bool) : (s.setKey k p).status = s.status := rfl
@[simp] theorem setKey_faultKind (k : Nibble) (p : Bool) : (s.setKey k p).faultKind = s.faultKind := rfl
@[simp] theorem setKey_faultOpcode (k : Nibble) (p : Bool) : (s.setKey k p).faultOpcode = s.faultOpcode := rfl
@[simp] theorem setKey_faultPc (k : Nibble) (p : Bool) : (s.setKey k p).faultPc = s.faultPc := rfl
@[simp] theorem setKey_tickDue (k : Nibble) (p : Bool) : (s.setKey k p).tickDue = s.tickDue := rfl
@[simp] theorem setKey_randByte (k : Nibble) (p : Bool) : (s.setKey k p).randByte = s.randByte := rfl
@[simp] theorem setKey_cycles (k : Nibble) (p : Bool) : (s.setKey k p).cycles = s.cycles := rfl

@[simp] theorem hostInputs_v : (s.hostInputs).v = s.v := rfl
@[simp] theorem hostInputs_i : (s.hostInputs).i = s.i := rfl
@[simp] theorem hostInputs_pc : (s.hostInputs).pc = s.pc := rfl
@[simp] theorem hostInputs_sp : (s.hostInputs).sp = s.sp := rfl
@[simp] theorem hostInputs_stack : (s.hostInputs).stack = s.stack := rfl
@[simp] theorem hostInputs_mem : (s.hostInputs).mem = s.mem := rfl
@[simp] theorem hostInputs_fb : (s.hostInputs).fb = s.fb := rfl
@[simp] theorem hostInputs_dt : (s.hostInputs).dt = s.dt := rfl
@[simp] theorem hostInputs_st : (s.hostInputs).st = s.st := rfl
@[simp] theorem hostInputs_keys : (s.hostInputs).keys = (Config.setKeyCalls s.cycles).foldl (fun keys call => setKeyBit keys call.1 call.2) s.keys := rfl
@[simp] theorem hostInputs_variant : (s.hostInputs).variant = s.variant := rfl
@[simp] theorem hostInputs_status : (s.hostInputs).status = s.status := rfl
@[simp] theorem hostInputs_faultKind : (s.hostInputs).faultKind = s.faultKind := rfl
@[simp] theorem hostInputs_faultOpcode : (s.hostInputs).faultOpcode = s.faultOpcode := rfl
@[simp] theorem hostInputs_faultPc : (s.hostInputs).faultPc = s.faultPc := rfl
@[simp] theorem hostInputs_tickDue : (s.hostInputs).tickDue = Config.tickDue s.cycles := rfl
@[simp] theorem hostInputs_randByte : (s.hostInputs).randByte = Config.randByte s.cycles := rfl
@[simp] theorem hostInputs_cycles : (s.hostInputs).cycles = s.cycles + 1 := rfl

end Sys2Proof.Machine
end

