-- ==== Sys2Proof/Laws/Alu.lean ====
section
/-! SUPPORT. The ALU's flags and nibbles in arithmetic (spec/41 R110 to R112), and the key index (44 R171). -/

namespace Sys2Proof.Machine

theorem carryOut_iff (a b : Byte) : carryOut a b = true ↔ 255 < a.toNat + b.toNat := by simp [carryOut]

theorem noBorrow_iff (a b : Byte) : noBorrow a b = true ↔ b.toNat ≤ a.toNat := by simp [noBorrow]

theorem toNat_loNibble (a : Byte) : (loNibble a).toNat = a.toNat % 16 := by simp [loNibble, BitVec.extractLsb'_toNat]

theorem toNat_hiNibble (a : Byte) : (hiNibble a).toNat = a.toNat / 16 := by
  have := a.isLt
  simp only [hiNibble, BitVec.extractLsb'_toNat, Nat.shiftRight_eq_div_pow]
  omega

theorem toNat_bcd (a : Byte) :
    (bcd a).1.toNat = a.toNat / 100 ∧ (bcd a).2.1.toNat = a.toNat / 10 % 10 ∧ (bcd a).2.2.toNat = a.toNat % 10 := by
  have := a.isLt
  simp only [bcd, BitVec.toNat_ofNat]
  omega

/-- What KeyIndex can do. -/
theorem keyIndex_cases (v : Byte) :
    (15 < v.toNat ∧ keyIndex v = none) ∨ (v.toNat ≤ 15 ∧ ∃ k, keyIndex v = some k ∧ k.toNat = v.toNat) := by
  have hz : hiNibble v = 0#4 ↔ v.toNat / 16 = 0 := by rw [← BitVec.toNat_inj, toNat_hiNibble]; rfl
  unfold keyIndex
  split_ifs with h
  · exact .inr ⟨by rw [hz] at h; omega, _, rfl, by rw [toNat_loNibble]; rw [hz] at h; omega⟩
  · exact .inl ⟨by rw [hz] at h; omega, rfl⟩

/-- What the scan of the keypad can find: no key is down, or the least key that is. -/
theorem firstKey_cases (s : State) :
    (s.firstKey = none ∧ ∀ k, k < 16 → s.keys.getLsbD k = false) ∨
    (∃ k, s.firstKey = some k ∧ k < 16 ∧ s.keys.getLsbD k = true ∧ ∀ j, j < k → s.keys.getLsbD j = false) := by
  unfold State.firstKey
  cases h : (List.range 16).find? (fun k => s.keys.getLsbD k) with
  | none =>
    refine .inl ⟨rfl, fun k hk => ?_⟩
    simpa using List.find?_eq_none.1 h k (List.mem_range.2 hk)
  | some k =>
    rw [List.find?_range_eq_some] at h
    refine .inr ⟨k, rfl, by simpa using h.2.1, h.1, fun j hj => by simpa using h.2.2 j hj⟩

end Sys2Proof.Machine
end

