-- ==== Sys2Proof/Laws/Registers.lean ====
section
/-! SUPPORT. General registers: what a read gives after each write, and what the writes of several registers do. -/

namespace Sys2Proof.Machine

variable (s : State)

@[simp] theorem getV_setV (x y : Nibble) (b : Byte) : (s.setV x b).getV y = if y = x then b else s.getV y := by
  simp [State.getV, State.setV, Vector.getElem_set, ← BitVec.toNat_inj, eq_comm]

theorem setV_eq (x : Nibble) (b : Byte) : s.setV x b = { s with v := (s.setV x b).v } := rfl

@[simp] theorem getV_setVF (y : Nibble) (f : Bool) :
    (s.setVF f).getV y = if y = 0xF#4 then (if f then 1#8 else 0#8) else s.getV y := by
  simp [State.setVF]

theorem setVF_eq (f : Bool) : s.setVF f = { s with v := (s.setVF f).v } := rfl

/-- Registers read the same in states with the same register file. -/
theorem getV_congr {s t : State} (h : t.v = s.v) (x : Nibble) : t.getV x = s.getV x := by
  simp [State.getV, h]

/-- Writing a register twice leaves the second value. -/
theorem setV_setV (x : Nibble) (b c : Byte) : (s.setV x b).setV x c = s.setV x c := by
  simp [State.setV]

theorem setResultAndFlag_eq (x : Nibble) (rf : Byte × Bool) :
    s.setResultAndFlag x rf = { s with v := (s.setResultAndFlag x rf).v } := rfl

theorem getV_setResultAndFlag (x y : Nibble) (rf : Byte × Bool) :
    (s.setResultAndFlag x rf).getV y =
      if y = 0xF#4 then (if rf.2 then 1#8 else 0#8) else if y = x then rf.1 else s.getV y := by
  simp [State.setResultAndFlag]

theorem setLogicResult_eq (x : Nibble) (r : Byte) :
    s.setLogicResult x r = { s with v := (s.setLogicResult x r).v } := by
  unfold State.setLogicResult
  split <;> rfl

theorem getV_setLogicResult (x y : Nibble) (r : Byte) :
    (s.setLogicResult x r).getV y =
      if y = 0xF#4 ∧ s.variant = .chip8 then 0#8 else if y = x then r else s.getV y := by
  unfold State.setLogicResult
  cases h : s.variant <;> simp

theorem setRegs_eq (k : Nat) (bytes : List Byte) : s.setRegs k bytes = { s with v := (s.setRegs k bytes).v } := by
  induction bytes generalizing s k with
  | nil => rfl
  | cons b rest ih =>
    rw [State.setRegs, ih]
    rfl

/-- Registers k, k + 1, ... take the bytes in order; the others keep their values (42 R142). -/
theorem getV_setRegs (k : Nat) (bytes : List Byte) (hk : k + bytes.length ≤ 16) (y : Nibble) :
    (s.setRegs k bytes).getV y =
      if k ≤ y.toNat ∧ y.toNat < k + bytes.length then bytes.getD (y.toNat - k) 0#8 else s.getV y := by
  induction bytes generalizing s k with
  | nil => simp [State.setRegs]
  | cons b rest ih =>
    simp only [List.length_cons] at hk
    rw [State.setRegs, ih _ _ (by omega), getV_setV]
    have hy : y = BitVec.ofNat 4 k ↔ y.toNat = k := by
      rw [← BitVec.toNat_inj, BitVec.toNat_ofNat, Nat.mod_eq_of_lt (by omega)]
    by_cases h : y.toNat = k
    · simp [hy, h]
    · by_cases hr : k + 1 ≤ y.toNat ∧ y.toNat < k + 1 + rest.length
      · rw [if_pos hr, if_pos (by simp; omega)]
        obtain ⟨j, hj⟩ : ∃ j, y.toNat - k = j + 1 := ⟨y.toNat - k - 1, by omega⟩
        rw [hj, List.getD_cons_succ, show y.toNat - (k + 1) = j by omega]
      · rw [if_neg hr, if_neg (by rw [hy]; exact h), if_neg (by simp; omega)]

theorem length_regList (k n : Nat) : (s.regList k n).length = n := by
  induction n generalizing k with
  | zero => rfl
  | succ n ih => simp [State.regList, ih]

@[simp] theorem length_regBlock (x : Nibble) : (s.regBlock x).length = x.toNat + 1 := length_regList s 0 _

theorem getD_regList (k n j : Nat) (h : j < n) : (s.regList k n).getD j 0#8 = s.getV (BitVec.ofNat 4 (k + j)) := by
  induction n generalizing k j with
  | zero => omega
  | succ n ih =>
    cases j with
    | zero => simp [State.regList]
    | succ j =>
      rw [State.regList, List.getD_cons_succ, ih _ _ (by omega)]
      congr 2
      omega

/-- Entry j of the dumped block is register j (42 R141). -/
theorem getD_regBlock (x : Nibble) (j : Nat) (h : j ≤ x.toNat) :
    (s.regBlock x).getD j 0#8 = s.getV (BitVec.ofNat 4 j) := by
  rw [State.regBlock, getD_regList s 0 _ j (by omega), Nat.zero_add]

/-- What the post-increment of I does to each field, and to I on each variant. -/
theorem postIncrement_eq (x : Nibble) : s.postIncrement x = { s with i := (s.postIncrement x).i } := by
  unfold State.postIncrement
  split <;> rfl

theorem postIncrement_i (x : Nibble) :
    (s.postIncrement x).i = if s.variant = .chip8 then s.i + x.setWidth 16 + 1#16 else s.i := by
  unfold State.postIncrement
  cases h : s.variant <;> simp

/-- A skip changes PC alone. -/
theorem skipIf_eq (c : Bool) : s.skipIf c = { s with pc := if c then s.pc + 2#16 else s.pc } := by
  cases c <;> rfl

end Sys2Proof.Machine
end

