-- ==== Sys2Proof/Laws/Compound.lean ====
section
/-! SUPPORT. The fields that the compound updates of State leave alone. -/

namespace Sys2Proof.Machine

variable (s : State)

@[simp] theorem skipIf_v (c : Bool) : (s.skipIf c).v = s.v := by rw [skipIf_eq]
@[simp] theorem skipIf_i (c : Bool) : (s.skipIf c).i = s.i := by rw [skipIf_eq]
@[simp] theorem skipIf_sp (c : Bool) : (s.skipIf c).sp = s.sp := by rw [skipIf_eq]
@[simp] theorem skipIf_stack (c : Bool) : (s.skipIf c).stack = s.stack := by rw [skipIf_eq]
@[simp] theorem skipIf_mem (c : Bool) : (s.skipIf c).mem = s.mem := by rw [skipIf_eq]
@[simp] theorem skipIf_fb (c : Bool) : (s.skipIf c).fb = s.fb := by rw [skipIf_eq]
@[simp] theorem skipIf_dt (c : Bool) : (s.skipIf c).dt = s.dt := by rw [skipIf_eq]
@[simp] theorem skipIf_st (c : Bool) : (s.skipIf c).st = s.st := by rw [skipIf_eq]
@[simp] theorem skipIf_keys (c : Bool) : (s.skipIf c).keys = s.keys := by rw [skipIf_eq]
@[simp] theorem skipIf_variant (c : Bool) : (s.skipIf c).variant = s.variant := by rw [skipIf_eq]
@[simp] theorem skipIf_status (c : Bool) : (s.skipIf c).status = s.status := by rw [skipIf_eq]
@[simp] theorem skipIf_faultKind (c : Bool) : (s.skipIf c).faultKind = s.faultKind := by rw [skipIf_eq]
@[simp] theorem skipIf_faultOpcode (c : Bool) : (s.skipIf c).faultOpcode = s.faultOpcode := by rw [skipIf_eq]
@[simp] theorem skipIf_faultPc (c : Bool) : (s.skipIf c).faultPc = s.faultPc := by rw [skipIf_eq]
@[simp] theorem skipIf_tickDue (c : Bool) : (s.skipIf c).tickDue = s.tickDue := by rw [skipIf_eq]
@[simp] theorem skipIf_randByte (c : Bool) : (s.skipIf c).randByte = s.randByte := by rw [skipIf_eq]
@[simp] theorem skipIf_cycles (c : Bool) : (s.skipIf c).cycles = s.cycles := by rw [skipIf_eq]

@[simp] theorem setVF_i (f : Bool) : (s.setVF f).i = s.i := rfl
@[simp] theorem setVF_pc (f : Bool) : (s.setVF f).pc = s.pc := rfl
@[simp] theorem setVF_sp (f : Bool) : (s.setVF f).sp = s.sp := rfl
@[simp] theorem setVF_stack (f : Bool) : (s.setVF f).stack = s.stack := rfl
@[simp] theorem setVF_mem (f : Bool) : (s.setVF f).mem = s.mem := rfl
@[simp] theorem setVF_fb (f : Bool) : (s.setVF f).fb = s.fb := rfl
@[simp] theorem setVF_dt (f : Bool) : (s.setVF f).dt = s.dt := rfl
@[simp] theorem setVF_st (f : Bool) : (s.setVF f).st = s.st := rfl
@[simp] theorem setVF_keys (f : Bool) : (s.setVF f).keys = s.keys := rfl
@[simp] theorem setVF_variant (f : Bool) : (s.setVF f).variant = s.variant := rfl
@[simp] theorem setVF_status (f : Bool) : (s.setVF f).status = s.status := rfl
@[simp] theorem setVF_faultKind (f : Bool) : (s.setVF f).faultKind = s.faultKind := rfl
@[simp] theorem setVF_faultOpcode (f : Bool) : (s.setVF f).faultOpcode = s.faultOpcode := rfl
@[simp] theorem setVF_faultPc (f : Bool) : (s.setVF f).faultPc = s.faultPc := rfl
@[simp] theorem setVF_tickDue (f : Bool) : (s.setVF f).tickDue = s.tickDue := rfl
@[simp] theorem setVF_randByte (f : Bool) : (s.setVF f).randByte = s.randByte := rfl
@[simp] theorem setVF_cycles (f : Bool) : (s.setVF f).cycles = s.cycles := rfl

@[simp] theorem setResultAndFlag_i (x : Nibble) (rf : Byte × Bool) : (s.setResultAndFlag x rf).i = s.i := rfl
@[simp] theorem setResultAndFlag_pc (x : Nibble) (rf : Byte × Bool) : (s.setResultAndFlag x rf).pc = s.pc := rfl
@[simp] theorem setResultAndFlag_sp (x : Nibble) (rf : Byte × Bool) : (s.setResultAndFlag x rf).sp = s.sp := rfl
@[simp] theorem setResultAndFlag_stack (x : Nibble) (rf : Byte × Bool) : (s.setResultAndFlag x rf).stack = s.stack := rfl
@[simp] theorem setResultAndFlag_mem (x : Nibble) (rf : Byte × Bool) : (s.setResultAndFlag x rf).mem = s.mem := rfl
@[simp] theorem setResultAndFlag_fb (x : Nibble) (rf : Byte × Bool) : (s.setResultAndFlag x rf).fb = s.fb := rfl
@[simp] theorem setResultAndFlag_dt (x : Nibble) (rf : Byte × Bool) : (s.setResultAndFlag x rf).dt = s.dt := rfl
@[simp] theorem setResultAndFlag_st (x : Nibble) (rf : Byte × Bool) : (s.setResultAndFlag x rf).st = s.st := rfl
@[simp] theorem setResultAndFlag_keys (x : Nibble) (rf : Byte × Bool) : (s.setResultAndFlag x rf).keys = s.keys := rfl
@[simp] theorem setResultAndFlag_variant (x : Nibble) (rf : Byte × Bool) : (s.setResultAndFlag x rf).variant = s.variant := rfl
@[simp] theorem setResultAndFlag_status (x : Nibble) (rf : Byte × Bool) : (s.setResultAndFlag x rf).status = s.status := rfl
@[simp] theorem setResultAndFlag_faultKind (x : Nibble) (rf : Byte × Bool) : (s.setResultAndFlag x rf).faultKind = s.faultKind := rfl
@[simp] theorem setResultAndFlag_faultOpcode (x : Nibble) (rf : Byte × Bool) : (s.setResultAndFlag x rf).faultOpcode = s.faultOpcode := rfl
@[simp] theorem setResultAndFlag_faultPc (x : Nibble) (rf : Byte × Bool) : (s.setResultAndFlag x rf).faultPc = s.faultPc := rfl
@[simp] theorem setResultAndFlag_tickDue (x : Nibble) (rf : Byte × Bool) : (s.setResultAndFlag x rf).tickDue = s.tickDue := rfl
@[simp] theorem setResultAndFlag_randByte (x : Nibble) (rf : Byte × Bool) : (s.setResultAndFlag x rf).randByte = s.randByte := rfl
@[simp] theorem setResultAndFlag_cycles (x : Nibble) (rf : Byte × Bool) : (s.setResultAndFlag x rf).cycles = s.cycles := rfl

@[simp] theorem setLogicResult_i (x : Nibble) (r : Byte) : (s.setLogicResult x r).i = s.i := by rw [setLogicResult_eq]
@[simp] theorem setLogicResult_pc (x : Nibble) (r : Byte) : (s.setLogicResult x r).pc = s.pc := by rw [setLogicResult_eq]
@[simp] theorem setLogicResult_sp (x : Nibble) (r : Byte) : (s.setLogicResult x r).sp = s.sp := by rw [setLogicResult_eq]
@[simp] theorem setLogicResult_stack (x : Nibble) (r : Byte) : (s.setLogicResult x r).stack = s.stack := by rw [setLogicResult_eq]
@[simp] theorem setLogicResult_mem (x : Nibble) (r : Byte) : (s.setLogicResult x r).mem = s.mem := by rw [setLogicResult_eq]
@[simp] theorem setLogicResult_fb (x : Nibble) (r : Byte) : (s.setLogicResult x r).fb = s.fb := by rw [setLogicResult_eq]
@[simp] theorem setLogicResult_dt (x : Nibble) (r : Byte) : (s.setLogicResult x r).dt = s.dt := by rw [setLogicResult_eq]
@[simp] theorem setLogicResult_st (x : Nibble) (r : Byte) : (s.setLogicResult x r).st = s.st := by rw [setLogicResult_eq]
@[simp] theorem setLogicResult_keys (x : Nibble) (r : Byte) : (s.setLogicResult x r).keys = s.keys := by rw [setLogicResult_eq]
@[simp] theorem setLogicResult_variant (x : Nibble) (r : Byte) : (s.setLogicResult x r).variant = s.variant := by rw [setLogicResult_eq]
@[simp] theorem setLogicResult_status (x : Nibble) (r : Byte) : (s.setLogicResult x r).status = s.status := by rw [setLogicResult_eq]
@[simp] theorem setLogicResult_faultKind (x : Nibble) (r : Byte) : (s.setLogicResult x r).faultKind = s.faultKind := by rw [setLogicResult_eq]
@[simp] theorem setLogicResult_faultOpcode (x : Nibble) (r : Byte) : (s.setLogicResult x r).faultOpcode = s.faultOpcode := by rw [setLogicResult_eq]
@[simp] theorem setLogicResult_faultPc (x : Nibble) (r : Byte) : (s.setLogicResult x r).faultPc = s.faultPc := by rw [setLogicResult_eq]
@[simp] theorem setLogicResult_tickDue (x : Nibble) (r : Byte) : (s.setLogicResult x r).tickDue = s.tickDue := by rw [setLogicResult_eq]
@[simp] theorem setLogicResult_randByte (x : Nibble) (r : Byte) : (s.setLogicResult x r).randByte = s.randByte := by rw [setLogicResult_eq]
@[simp] theorem setLogicResult_cycles (x : Nibble) (r : Byte) : (s.setLogicResult x r).cycles = s.cycles := by rw [setLogicResult_eq]

@[simp] theorem setRegs_i (k : Nat) (bytes : List Byte) : (s.setRegs k bytes).i = s.i := by rw [setRegs_eq]
@[simp] theorem setRegs_pc (k : Nat) (bytes : List Byte) : (s.setRegs k bytes).pc = s.pc := by rw [setRegs_eq]
@[simp] theorem setRegs_sp (k : Nat) (bytes : List Byte) : (s.setRegs k bytes).sp = s.sp := by rw [setRegs_eq]
@[simp] theorem setRegs_stack (k : Nat) (bytes : List Byte) : (s.setRegs k bytes).stack = s.stack := by rw [setRegs_eq]
@[simp] theorem setRegs_mem (k : Nat) (bytes : List Byte) : (s.setRegs k bytes).mem = s.mem := by rw [setRegs_eq]
@[simp] theorem setRegs_fb (k : Nat) (bytes : List Byte) : (s.setRegs k bytes).fb = s.fb := by rw [setRegs_eq]
@[simp] theorem setRegs_dt (k : Nat) (bytes : List Byte) : (s.setRegs k bytes).dt = s.dt := by rw [setRegs_eq]
@[simp] theorem setRegs_st (k : Nat) (bytes : List Byte) : (s.setRegs k bytes).st = s.st := by rw [setRegs_eq]
@[simp] theorem setRegs_keys (k : Nat) (bytes : List Byte) : (s.setRegs k bytes).keys = s.keys := by rw [setRegs_eq]
@[simp] theorem setRegs_variant (k : Nat) (bytes : List Byte) : (s.setRegs k bytes).variant = s.variant := by rw [setRegs_eq]
@[simp] theorem setRegs_status (k : Nat) (bytes : List Byte) : (s.setRegs k bytes).status = s.status := by rw [setRegs_eq]
@[simp] theorem setRegs_faultKind (k : Nat) (bytes : List Byte) : (s.setRegs k bytes).faultKind = s.faultKind := by rw [setRegs_eq]
@[simp] theorem setRegs_faultOpcode (k : Nat) (bytes : List Byte) : (s.setRegs k bytes).faultOpcode = s.faultOpcode := by rw [setRegs_eq]
@[simp] theorem setRegs_faultPc (k : Nat) (bytes : List Byte) : (s.setRegs k bytes).faultPc = s.faultPc := by rw [setRegs_eq]
@[simp] theorem setRegs_tickDue (k : Nat) (bytes : List Byte) : (s.setRegs k bytes).tickDue = s.tickDue := by rw [setRegs_eq]
@[simp] theorem setRegs_randByte (k : Nat) (bytes : List Byte) : (s.setRegs k bytes).randByte = s.randByte := by rw [setRegs_eq]
@[simp] theorem setRegs_cycles (k : Nat) (bytes : List Byte) : (s.setRegs k bytes).cycles = s.cycles := by rw [setRegs_eq]

@[simp] theorem postIncrement_v (x : Nibble) : (s.postIncrement x).v = s.v := by rw [postIncrement_eq]
@[simp] theorem postIncrement_pc (x : Nibble) : (s.postIncrement x).pc = s.pc := by rw [postIncrement_eq]
@[simp] theorem postIncrement_sp (x : Nibble) : (s.postIncrement x).sp = s.sp := by rw [postIncrement_eq]
@[simp] theorem postIncrement_stack (x : Nibble) : (s.postIncrement x).stack = s.stack := by rw [postIncrement_eq]
@[simp] theorem postIncrement_mem (x : Nibble) : (s.postIncrement x).mem = s.mem := by rw [postIncrement_eq]
@[simp] theorem postIncrement_fb (x : Nibble) : (s.postIncrement x).fb = s.fb := by rw [postIncrement_eq]
@[simp] theorem postIncrement_dt (x : Nibble) : (s.postIncrement x).dt = s.dt := by rw [postIncrement_eq]
@[simp] theorem postIncrement_st (x : Nibble) : (s.postIncrement x).st = s.st := by rw [postIncrement_eq]
@[simp] theorem postIncrement_keys (x : Nibble) : (s.postIncrement x).keys = s.keys := by rw [postIncrement_eq]
@[simp] theorem postIncrement_variant (x : Nibble) : (s.postIncrement x).variant = s.variant := by rw [postIncrement_eq]
@[simp] theorem postIncrement_status (x : Nibble) : (s.postIncrement x).status = s.status := by rw [postIncrement_eq]
@[simp] theorem postIncrement_faultKind (x : Nibble) : (s.postIncrement x).faultKind = s.faultKind := by rw [postIncrement_eq]
@[simp] theorem postIncrement_faultOpcode (x : Nibble) : (s.postIncrement x).faultOpcode = s.faultOpcode := by rw [postIncrement_eq]
@[simp] theorem postIncrement_faultPc (x : Nibble) : (s.postIncrement x).faultPc = s.faultPc := by rw [postIncrement_eq]
@[simp] theorem postIncrement_tickDue (x : Nibble) : (s.postIncrement x).tickDue = s.tickDue := by rw [postIncrement_eq]
@[simp] theorem postIncrement_randByte (x : Nibble) : (s.postIncrement x).randByte = s.randByte := by rw [postIncrement_eq]
@[simp] theorem postIncrement_cycles (x : Nibble) : (s.postIncrement x).cycles = s.cycles := by rw [postIncrement_eq]

@[simp] theorem raise_v (k : FaultKind) (j : Instr) : (s.raise k j).v = s.v := rfl
@[simp] theorem raise_i (k : FaultKind) (j : Instr) : (s.raise k j).i = s.i := rfl
@[simp] theorem raise_pc (k : FaultKind) (j : Instr) : (s.raise k j).pc = s.pc := rfl
@[simp] theorem raise_sp (k : FaultKind) (j : Instr) : (s.raise k j).sp = s.sp := rfl
@[simp] theorem raise_stack (k : FaultKind) (j : Instr) : (s.raise k j).stack = s.stack := rfl
@[simp] theorem raise_mem (k : FaultKind) (j : Instr) : (s.raise k j).mem = s.mem := rfl
@[simp] theorem raise_fb (k : FaultKind) (j : Instr) : (s.raise k j).fb = s.fb := rfl
@[simp] theorem raise_dt (k : FaultKind) (j : Instr) : (s.raise k j).dt = s.dt := rfl
@[simp] theorem raise_st (k : FaultKind) (j : Instr) : (s.raise k j).st = s.st := rfl
@[simp] theorem raise_keys (k : FaultKind) (j : Instr) : (s.raise k j).keys = s.keys := rfl
@[simp] theorem raise_variant (k : FaultKind) (j : Instr) : (s.raise k j).variant = s.variant := rfl
@[simp] theorem raise_tickDue (k : FaultKind) (j : Instr) : (s.raise k j).tickDue = s.tickDue := rfl
@[simp] theorem raise_randByte (k : FaultKind) (j : Instr) : (s.raise k j).randByte = s.randByte := rfl
@[simp] theorem raise_cycles (k : FaultKind) (j : Instr) : (s.raise k j).cycles = s.cycles := rfl

end Sys2Proof.Machine
end

