-- ==== Sys2Proof/Laws/Memory.lean ====
section
/-! SUPPORT. Memory: read after write, the canonical form, and what each access of several bytes does. -/

namespace Sys2Proof.Machine

/-! ### One byte -/

/-- A write leaves every other address alone. -/
theorem read_write_other (m : Memory) (a b : Nat) (c : Byte) (h : b ≠ a) : (m.write a c).read b = m.read b := by
  induction m with
  | nil =>
    unfold Memory.write
    split <;> simp [Memory.read, h.symm]
  | cons cell rest ih =>
    obtain ⟨k, d⟩ := cell
    have hk : k = a → k ≠ b := fun h => by omega
    unfold Memory.write
    split_ifs with h1 h2 h3 h4
    · rfl
    · rw [Memory.read, if_neg h.symm]
    · rw [Memory.read, if_neg (hk h3.symm)]
    · rw [Memory.read, Memory.read, if_neg h.symm, if_neg (hk h3.symm)]
    · rw [Memory.read, Memory.read, ih]

/-- A lower start only weakens the canonical form. -/
theorem wfFrom_mono {lo lo' : Nat} (h : lo' ≤ lo) (m : Memory) (hm : Memory.wfFrom lo m = true) :
    Memory.wfFrom lo' m = true := by
  cases m with
  | nil => rfl
  | cons cell rest =>
    simp only [Memory.wfFrom, Bool.and_eq_true, decide_eq_true_eq] at hm ⊢
    exact ⟨⟨⟨by omega, hm.1.1.2⟩, hm.1.2⟩, hm.2⟩

/-- In canonical form, addresses below the first one listed read as 0. -/
theorem read_below (lo : Nat) (m : Memory) (hm : Memory.wfFrom lo m = true) (a : Nat) (h : a < lo) : m.read a = 0#8 := by
  induction m generalizing lo with
  | nil => rfl
  | cons cell rest ih =>
    obtain ⟨k, d⟩ := cell
    simp only [Memory.wfFrom, Bool.and_eq_true, decide_eq_true_eq] at hm
    rw [Memory.read, if_neg (by omega)]
    exact ih (k + 1) hm.2 (by omega)

/-- A write puts the byte at its address. -/
theorem read_write_self_from (lo : Nat) (m : Memory) (hm : Memory.wfFrom lo m = true) (a : Nat) (c : Byte) :
    (m.write a c).read a = c := by
  induction m generalizing lo with
  | nil =>
    unfold Memory.write
    split <;> simp_all [Memory.read]
  | cons cell rest ih =>
    obtain ⟨k, d⟩ := cell
    simp only [Memory.wfFrom, Bool.and_eq_true, decide_eq_true_eq] at hm
    unfold Memory.write
    split_ifs with h1 h2 h3 h4
    · rw [Memory.read, if_neg (by omega), h2, read_below (k + 1) rest hm.2 a (by omega)]
    · simp [Memory.read]
    · rw [h4, read_below (k + 1) rest hm.2 a (by omega)]
    · simp [Memory.read]
    · rw [Memory.read, if_neg (by omega)]
      exact ih (k + 1) hm.2

theorem read_write_self (m : Memory) (hm : m.wf = true) (a : Nat) (c : Byte) : (m.write a c).read a = c :=
  read_write_self_from 0 m hm a c

/-- A write inside the address space keeps the canonical form. -/
theorem wfFrom_write (lo : Nat) (m : Memory) (hm : Memory.wfFrom lo m = true) (a : Nat) (c : Byte) (hlo : lo ≤ a)
    (ha : a < Config.memSize) : Memory.wfFrom lo (m.write a c) = true := by
  induction m generalizing lo with
  | nil =>
    unfold Memory.write
    split <;> simp_all [Memory.wfFrom]
  | cons cell rest ih =>
    obtain ⟨k, d⟩ := cell
    have hm' := hm
    simp only [Memory.wfFrom, Bool.and_eq_true, decide_eq_true_eq] at hm'
    obtain ⟨⟨⟨h1, h2⟩, h3⟩, h4⟩ := hm'
    unfold Memory.write
    split_ifs with g1 g2 g3 g4
    · exact hm
    · simp only [Memory.wfFrom, Bool.and_eq_true, decide_eq_true_eq]
      exact ⟨⟨⟨hlo, ha⟩, g2⟩, ⟨⟨by omega, h2⟩, h3⟩, h4⟩
    · exact wfFrom_mono (by omega) rest h4
    · subst g3
      simp only [Memory.wfFrom, Bool.and_eq_true, decide_eq_true_eq]
      exact ⟨⟨⟨hlo, ha⟩, g4⟩, h4⟩
    · simp only [Memory.wfFrom, Bool.and_eq_true, decide_eq_true_eq]
      exact ⟨⟨⟨h1, h2⟩, h3⟩, ih (k + 1) h4 (by omega)⟩

theorem wf_write (m : Memory) (hm : m.wf = true) (a : Nat) (c : Byte) (ha : a < Config.memSize) :
    (m.write a c).wf = true := wfFrom_write 0 m hm a c (Nat.zero_le a) ha

/-! ### Several bytes -/

theorem wf_writeBytes (m : Memory) (hm : m.wf = true) (a : Nat) (bytes : List Byte)
    (h : a + bytes.length ≤ Config.memSize) : (m.writeBytes a bytes).wf = true := by
  induction bytes generalizing m a with
  | nil => exact hm
  | cons b rest ih =>
    simp only [List.length_cons] at h
    exact ih _ (wf_write m hm a b (by omega)) _ (by omega)

/-- Byte `c` after a block write: the block's byte inside the block, the old byte outside. -/
theorem read_writeBytes (m : Memory) (hm : m.wf = true) (a : Nat) (bytes : List Byte)
    (h : a + bytes.length ≤ Config.memSize) (c : Nat) :
    (m.writeBytes a bytes).read c =
      if a ≤ c ∧ c < a + bytes.length then bytes.getD (c - a) 0#8 else m.read c := by
  induction bytes generalizing m a with
  | nil => simp [Memory.writeBytes]
  | cons b rest ih =>
    simp only [List.length_cons] at h
    rw [Memory.writeBytes, ih _ (wf_write m hm a b (by omega)) _ (by omega)]
    by_cases hc : c = a
    · subst hc
      rw [if_neg (by omega), if_pos (by simp), read_write_self m hm]
      simp
    · rw [read_write_other m a c b hc]
      by_cases hr : a + 1 ≤ c ∧ c < a + 1 + rest.length
      · rw [if_pos hr, if_pos (by simp; omega)]
        obtain ⟨j, hj⟩ : ∃ j, c - a = j + 1 := ⟨c - a - 1, by omega⟩
        rw [hj, List.getD_cons_succ, show c - (a + 1) = j by omega]
      · rw [if_neg hr, if_neg (by simp; omega)]

@[simp] theorem length_readBytes (m : Memory) (a n : Nat) : (m.readBytes a n).length = n := by
  induction n generalizing a with
  | zero => rfl
  | succ n ih => simp [Memory.readBytes, ih]

/-- Byte k of a block read is the byte k places on. -/
theorem getD_readBytes (m : Memory) (a n k : Nat) (h : k < n) : (m.readBytes a n).getD k 0#8 = m.read (a + k) := by
  induction n generalizing a k with
  | zero => omega
  | succ n ih =>
    cases k with
    | zero => simp [Memory.readBytes]
    | succ k =>
      rw [Memory.readBytes, List.getD_cons_succ, ih _ _ (by omega)]
      congr 1
      omega

/-! ### The checked accesses (20 R43 to R45) -/

theorem outOfBounds_iff (addr : Word) (n : Nat) :
    outOfBounds addr n = true ↔ 0 < n ∧ 4095 < addr.toNat + n - 1 := by
  simp [outOfBounds]

/-- What MemRead can do. -/
theorem memRead_cases (s : State) (addr : Word) (n : Nat) :
    (s.memRead addr n = none ∧ 0 < n ∧ 4095 < addr.toNat + n - 1) ∨
    (s.memRead addr n = some (s.mem.readBytes addr.toNat n) ∧ (n = 0 ∨ addr.toNat + n - 1 ≤ 4095)) := by
  unfold State.memRead
  by_cases h : outOfBounds addr n = true
  · simp only [h, if_true]
    exact .inl ⟨trivial, (outOfBounds_iff _ _).1 h⟩
  · simp only [h]
    rw [outOfBounds_iff] at h
    exact .inr ⟨rfl, by omega⟩

/-- What MemWrite can do. -/
theorem memWrite_cases (s : State) (addr : Word) (bytes : List Byte) :
    (s.memWrite addr bytes = none ∧ 0 < bytes.length ∧ 4095 < addr.toNat + bytes.length - 1) ∨
    (s.memWrite addr bytes = some { s with mem := s.mem.writeBytes addr.toNat bytes } ∧
      (bytes.length = 0 ∨ addr.toNat + bytes.length - 1 ≤ 4095)) := by
  unfold State.memWrite
  by_cases h : outOfBounds addr bytes.length = true
  · simp only [h, if_true]
    exact .inl ⟨trivial, (outOfBounds_iff _ _).1 h⟩
  · simp only [h]
    rw [outOfBounds_iff] at h
    exact .inr ⟨rfl, by omega⟩

/-- What Fetch can do. -/
theorem fetch_cases (s : State) :
    (s.fetch = none ∧ 4094 < s.pc.toNat) ∨
    (s.fetch = some (s.mem.read s.pc.toNat ++ s.mem.read (s.pc.toNat + 1)) ∧ s.pc.toNat ≤ 4094) := by
  unfold State.fetch
  rcases memRead_cases s s.pc 2 with ⟨h, _, hb⟩ | ⟨h, hb⟩
  · rw [h]
    exact .inl ⟨rfl, by omega⟩
  · rw [h]
    exact .inr ⟨rfl, by omega⟩

/-- The fetch depends on PC and memory alone. -/
theorem fetch_congr {s t : State} (hp : t.pc = s.pc) (hm : t.mem = s.mem) : t.fetch = s.fetch := by
  simp [State.fetch, State.memRead, hp, hm]

@[simp] theorem fetch_tickTimers (s : State) : s.tickTimers.fetch = s.fetch := rfl

@[simp] theorem fetch_hostInputs (s : State) : s.hostInputs.fetch = s.fetch := rfl

/-- The fetch after an opcode was placed at PC reads that opcode. -/
theorem opcodeBytes_append (op : Word) : op.extractLsb' 8 8 ++ op.extractLsb' 0 8 = op := by
  apply BitVec.eq_of_toNat_eq
  simp only [BitVec.toNat_append, BitVec.extractLsb'_toNat, Nat.shiftRight_eq_div_pow, Nat.shiftLeft_eq]
  rw [Nat.mul_comm, ← Nat.two_pow_add_eq_or_of_lt (by omega)]
  have := op.isLt
  omega

end Sys2Proof.Machine
end

