-- ==== Sys2Proof/Laws/Cycle.lean ====
section
/-! SUPPORT. What one cycle can do (spec/40 R90). -/

namespace Sys2Proof.Machine

/-- The four ways a cycle goes: the core is faulted; the fetch faults; the opcode is unknown; an instruction executes. -/
theorem cycle_cases (s : State) :
    (s.status = .faulted ∧ s.cycle = .next s) ∨
    (s.status = .running ∧ s.fetch = none ∧
      s.cycle = .next (s.tickTimers.faultEntry .memoryOutOfBounds 0#16 s.pc)) ∨
    (∃ op, s.status = .running ∧ s.fetch = some op ∧ decode op = none ∧
      s.cycle = .next (s.tickTimers.advancePc.faultEntry .unknownOpcode op s.pc)) ∨
    (∃ op i, s.status = .running ∧ s.fetch = some op ∧ decode op = some i ∧
      s.cycle = exec i s.tickTimers.advancePc) := by
  cases hs : s.status with
  | faulted => exact .inl ⟨rfl, by simp [State.cycle, hs]⟩
  | running =>
    cases hf : s.fetch with
    | none => exact .inr (.inl ⟨rfl, rfl, by simp [State.cycle, hs, hf]⟩)
    | some op =>
      cases hd : decode op with
      | none => exact .inr (.inr (.inl ⟨op, rfl, rfl, hd, by simp [State.cycle, hs, hf, State.decodeExecute, hd]⟩))
      | some i => exact .inr (.inr (.inr ⟨op, i, rfl, rfl, hd, by simp [State.cycle, hs, hf, State.decodeExecute, hd]⟩))

/-- The host's part of a step leaves STATUS and the fetch alone, so a step is a cycle of the state it gives. -/
theorem step_eq (s : State) : step s = s.hostInputs.cycle := rfl

end Sys2Proof.Machine
end

