-- ==== Sys2Proof/Laws/Decode.lean ====
section
/-! SUPPORT. The fields of an opcode written as its nibbles or bytes (spec/30 R61, R64). -/

namespace Sys2Proof

/-- Joining bit strings as arithmetic: the left one in the high bits (00 R6). -/
theorem toNat_join {m n : Nat} (a : BitVec m) (b : BitVec n) : (a ++ b).toNat = a.toNat * 2 ^ n + b.toNat := by
  rw [BitVec.toNat_append, Nat.shiftLeft_eq, Nat.mul_comm, Nat.two_pow_add_eq_or_of_lt b.isLt]

/-! ### Each field as arithmetic -/

theorem toNat_fieldF (op : Word) : (fieldF op).toNat = op.toNat / 4096 := by
  have := op.isLt
  simp only [fieldF, BitVec.extractLsb'_toNat, Nat.shiftRight_eq_div_pow]
  omega

theorem toNat_fieldX (op : Word) : (fieldX op).toNat = op.toNat / 256 % 16 := by
  simp only [fieldX, BitVec.extractLsb'_toNat, Nat.shiftRight_eq_div_pow]

theorem toNat_fieldY (op : Word) : (fieldY op).toNat = op.toNat / 16 % 16 := by
  simp only [fieldY, BitVec.extractLsb'_toNat, Nat.shiftRight_eq_div_pow]

theorem toNat_fieldN (op : Word) : (fieldN op).toNat = op.toNat % 16 := by
  simp [fieldN, BitVec.extractLsb'_toNat]

theorem toNat_fieldNN (op : Word) : (fieldNN op).toNat = op.toNat % 256 := by
  simp [fieldNN, BitVec.extractLsb'_toNat]

theorem toNat_fieldNNN (op : Word) : (fieldNNN op).toNat = op.toNat % 4096 := by
  simp [fieldNNN, BitVec.extractLsb'_toNat]

/-! ### The layouts FXYN, FXNN and FNNN -/

variable (f x y n : Nibble) (nn : Byte) (nnn : Addr12)

@[simp] theorem fieldF_fxyn : fieldF (f ++ x ++ y ++ n) = f := by
  apply BitVec.eq_of_toNat_eq; rw [toNat_fieldF]; simp only [toNat_join]; omega
@[simp] theorem fieldX_fxyn : fieldX (f ++ x ++ y ++ n) = x := by
  apply BitVec.eq_of_toNat_eq; rw [toNat_fieldX]; simp only [toNat_join]; omega
@[simp] theorem fieldY_fxyn : fieldY (f ++ x ++ y ++ n) = y := by
  apply BitVec.eq_of_toNat_eq; rw [toNat_fieldY]; simp only [toNat_join]; omega
@[simp] theorem fieldN_fxyn : fieldN (f ++ x ++ y ++ n) = n := by
  apply BitVec.eq_of_toNat_eq; rw [toNat_fieldN]; simp only [toNat_join]; omega
@[simp] theorem fieldF_fxnn : fieldF (f ++ x ++ nn) = f := by
  apply BitVec.eq_of_toNat_eq; rw [toNat_fieldF]; simp only [toNat_join]; omega
@[simp] theorem fieldX_fxnn : fieldX (f ++ x ++ nn) = x := by
  apply BitVec.eq_of_toNat_eq; rw [toNat_fieldX]; simp only [toNat_join]; omega
@[simp] theorem fieldNN_fxnn : fieldNN (f ++ x ++ nn) = nn := by
  apply BitVec.eq_of_toNat_eq; rw [toNat_fieldNN]; simp only [toNat_join]; omega
@[simp] theorem fieldF_fnnn : fieldF (f ++ nnn) = f := by
  apply BitVec.eq_of_toNat_eq; rw [toNat_fieldF]; simp only [toNat_join]; omega
@[simp] theorem fieldNNN_fnnn : fieldNNN (f ++ nnn) = nnn := by
  apply BitVec.eq_of_toNat_eq; rw [toNat_fieldNNN]; simp only [toNat_join]; omega

/-- An opcode is its four nibbles. -/
theorem opcode_eq_fxyn (op : Word) : op = fieldF op ++ fieldX op ++ fieldY op ++ fieldN op := by
  apply BitVec.eq_of_toNat_eq
  simp only [toNat_join, toNat_fieldF, toNat_fieldX, toNat_fieldY, toNat_fieldN]
  omega

/-- An opcode is its family, X and NN. -/
theorem opcode_eq_fxnn (op : Word) : op = fieldF op ++ fieldX op ++ fieldNN op := by
  apply BitVec.eq_of_toNat_eq
  simp only [toNat_join, toNat_fieldF, toNat_fieldX, toNat_fieldNN]
  omega

/-- An opcode is its family and NNN. -/
theorem opcode_eq_fnnn (op : Word) : op = fieldF op ++ fieldNNN op := by
  apply BitVec.eq_of_toNat_eq
  simp only [toNat_join, toNat_fieldF, toNat_fieldNNN]
  omega

/-- An opcode is unknown exactly when dispatch gives it no tag. -/
theorem decode_eq_none (op : Word) : decode op = none ↔ decodeTag op = none := by
  unfold decode decodeRecord
  cases decodeTag op <;> simp

end Sys2Proof
end

