-- ==== Sys2Proof/Laws/Display.lean ====
section
/-! SUPPORT. The framebuffer: reads after xor_write and clear, and one turn of the collision detector
(spec/43 R150, R151). -/

namespace Sys2Proof.Machine

@[simp] theorem pixel_clear (x y : Nat) : Framebuffer.clear.pixel x y = false := by
  unfold Framebuffer.pixel Framebuffer.clear
  split <;> simp

/-- xor_write inverts its pixel and leaves every other pixel alone. -/
theorem pixel_xorWrite (fb : Framebuffer) (x y px py : Nat) (hx : x < 64) (hy : y < 32) :
    (fb.xorWrite x y).pixel px py = (fb.pixel px py ^^ decide (px = x ∧ py = y)) := by
  unfold Framebuffer.xorWrite Framebuffer.pixel
  by_cases h : py < 32
  · by_cases hpy : py = y
    · subst hpy
      by_cases hpx : px = x
      · subst hpx; simp [h, hx]
      · simp [h, hpx, Ne.symm hpx]
    · simp [h, hy, hpy, Ne.symm hpy]
  · simp [h]; omega

/-- Two framebuffers with the same pixels are equal. -/
theorem framebuffer_ext (f g : Framebuffer) (h : ∀ x y, x < 64 → y < 32 → f.pixel x y = g.pixel x y) : f = g := by
  apply Vector.ext
  intro y hy
  apply BitVec.eq_of_getLsbD_eq
  intro x hx
  simpa [Framebuffer.pixel, hy] using h x y hx hy

/-- One turn of the inner loop, pixel by pixel. -/
theorem pixel_compositeBit (byte : Byte) (px py k : Nat) (acc : Framebuffer × Bool) (qx qy : Nat) :
    (compositeBit byte px py k acc).1.pixel qx qy =
      (acc.1.pixel qx qy ^^ decide (byte.getLsbD (7 - k) = true ∧ px ≤ 63 ∧ py ≤ 31 ∧ qx = px ∧ qy = py)) := by
  unfold compositeBit
  split_ifs with h
  · rw [pixel_xorWrite _ _ _ _ _ (by omega) (by omega)]
    simp [h]
  · have : ¬(byte.getLsbD (7 - k) = true ∧ px ≤ 63 ∧ py ≤ 31 ∧ qx = px ∧ qy = py) := fun g => h ⟨g.1, g.2.1, g.2.2.1⟩
    simp [this]

/-- One turn of the inner loop, the collision flag. -/
theorem collision_compositeBit (byte : Byte) (px py k : Nat) (acc : Framebuffer × Bool) :
    (compositeBit byte px py k acc).2 =
      (acc.2 || (decide (byte.getLsbD (7 - k) = true ∧ px ≤ 63 ∧ py ≤ 31) && acc.1.pixel px py)) := by
  unfold compositeBit
  split_ifs with h <;> simp [h]

end Sys2Proof.Machine
end

