-- ==== Sys2Proof/Laws/PerInstr.lean ====
section
/-! SUPPORT. One lemma per instruction: its opcode lies in its own row of the opcode map (spec/30 R76). -/

namespace Sys2Proof.Laws.MatchesRow

/-- The opcode of `i`, masked with its row's mask, is its row's match. -/
def Statement (i : Instr) : Prop := encode i &&& i.tag.mask = i.tag.pattern

variable (f x y n : Nibble) (nn : Byte) (nnn : Addr12)

/-! ### What each mask of the map keeps of each layout -/

theorem mask_f000_fnnn : (f ++ nnn) &&& (0xF000 : Word) = f ++ 0x000#12 := by
  apply BitVec.eq_of_getLsbD_eq
  intro i hi
  simp only [BitVec.getLsbD_and, BitVec.getLsbD_append]
  interval_cases i <;> simp

theorem mask_f000_fxnn : (f ++ x ++ nn) &&& (0xF000 : Word) = f ++ 0x0#4 ++ 0x00#8 := by
  apply BitVec.eq_of_getLsbD_eq
  intro i hi
  simp only [BitVec.getLsbD_and, BitVec.getLsbD_append]
  interval_cases i <;> simp

theorem mask_f000_fxyn : (f ++ x ++ y ++ n) &&& (0xF000 : Word) = f ++ 0x0#4 ++ 0x0#4 ++ 0x0#4 := by
  apply BitVec.eq_of_getLsbD_eq
  intro i hi
  simp only [BitVec.getLsbD_and, BitVec.getLsbD_append]
  interval_cases i <;> simp

theorem mask_f00f_fxyn : (f ++ x ++ y ++ n) &&& (0xF00F : Word) = f ++ 0x0#4 ++ 0x0#4 ++ n := by
  apply BitVec.eq_of_getLsbD_eq
  intro i hi
  simp only [BitVec.getLsbD_and, BitVec.getLsbD_append]
  interval_cases i <;> simp

theorem mask_f0ff_fxnn : (f ++ x ++ nn) &&& (0xF0FF : Word) = f ++ 0x0#4 ++ nn := by
  apply BitVec.eq_of_getLsbD_eq
  intro i hi
  simp only [BitVec.getLsbD_and, BitVec.getLsbD_append]
  interval_cases i <;> simp

/-! ### The instructions -/

theorem sys (ign : Nibble) : Statement (.sys ign) := mask_f0ff_fxnn 0x0#4 ign 0x00#8
theorem cls (ign : Nibble) : Statement (.cls ign) := mask_f0ff_fxnn 0x0#4 ign 0xE0#8
theorem ret (ign : Nibble) : Statement (.ret ign) := mask_f0ff_fxnn 0x0#4 ign 0xEE#8
theorem jp (nnn : Addr12) : Statement (.jp nnn) := mask_f000_fnnn 0x1#4 nnn
theorem call (nnn : Addr12) : Statement (.call nnn) := mask_f000_fnnn 0x2#4 nnn
theorem seImm (x : Nibble) (nn : Byte) : Statement (.seImm x nn) := mask_f000_fxnn 0x3#4 x nn
theorem sneImm (x : Nibble) (nn : Byte) : Statement (.sneImm x nn) := mask_f000_fxnn 0x4#4 x nn
theorem seReg (x y ign : Nibble) : Statement (.seReg x y ign) := mask_f000_fxyn 0x5#4 x y ign
theorem ldImm (x : Nibble) (nn : Byte) : Statement (.ldImm x nn) := mask_f000_fxnn 0x6#4 x nn
theorem addImm (x : Nibble) (nn : Byte) : Statement (.addImm x nn) := mask_f000_fxnn 0x7#4 x nn
theorem ldReg (x y : Nibble) : Statement (.ldReg x y) := mask_f00f_fxyn 0x8#4 x y 0x0#4
theorem or (x y : Nibble) : Statement (.or x y) := mask_f00f_fxyn 0x8#4 x y 0x1#4
theorem and (x y : Nibble) : Statement (.and x y) := mask_f00f_fxyn 0x8#4 x y 0x2#4
theorem xor (x y : Nibble) : Statement (.xor x y) := mask_f00f_fxyn 0x8#4 x y 0x3#4
theorem addReg (x y : Nibble) : Statement (.addReg x y) := mask_f00f_fxyn 0x8#4 x y 0x4#4
theorem sub (x y : Nibble) : Statement (.sub x y) := mask_f00f_fxyn 0x8#4 x y 0x5#4
theorem shr (x y : Nibble) : Statement (.shr x y) := mask_f00f_fxyn 0x8#4 x y 0x6#4
theorem subn (x y : Nibble) : Statement (.subn x y) := mask_f00f_fxyn 0x8#4 x y 0x7#4
theorem shl (x y : Nibble) : Statement (.shl x y) := mask_f00f_fxyn 0x8#4 x y 0xE#4
theorem sneReg (x y ign : Nibble) : Statement (.sneReg x y ign) := mask_f000_fxyn 0x9#4 x y ign
theorem ldI (nnn : Addr12) : Statement (.ldI nnn) := mask_f000_fnnn 0xA#4 nnn
theorem jpV0 (nnn : Addr12) : Statement (.jpV0 nnn) := mask_f000_fnnn 0xB#4 nnn
theorem rnd (x : Nibble) (nn : Byte) : Statement (.rnd x nn) := mask_f000_fxnn 0xC#4 x nn
theorem drw (x y n : Nibble) : Statement (.drw x y n) := mask_f000_fxyn 0xD#4 x y n
theorem skp (x : Nibble) : Statement (.skp x) := mask_f0ff_fxnn 0xE#4 x 0x9E#8
theorem sknp (x : Nibble) : Statement (.sknp x) := mask_f0ff_fxnn 0xE#4 x 0xA1#8
theorem ldVxDt (x : Nibble) : Statement (.ldVxDt x) := mask_f0ff_fxnn 0xF#4 x 0x07#8
theorem ldVxK (x : Nibble) : Statement (.ldVxK x) := mask_f0ff_fxnn 0xF#4 x 0x0A#8
theorem ldDtVx (x : Nibble) : Statement (.ldDtVx x) := mask_f0ff_fxnn 0xF#4 x 0x15#8
theorem ldStVx (x : Nibble) : Statement (.ldStVx x) := mask_f0ff_fxnn 0xF#4 x 0x18#8
theorem addIVx (x : Nibble) : Statement (.addIVx x) := mask_f0ff_fxnn 0xF#4 x 0x1E#8
theorem ldFVx (x : Nibble) : Statement (.ldFVx x) := mask_f0ff_fxnn 0xF#4 x 0x29#8
theorem ldBVx (x : Nibble) : Statement (.ldBVx x) := mask_f0ff_fxnn 0xF#4 x 0x33#8
theorem ldMemVx (x : Nibble) : Statement (.ldMemVx x) := mask_f0ff_fxnn 0xF#4 x 0x55#8
theorem ldVxMem (x : Nibble) : Statement (.ldVxMem x) := mask_f0ff_fxnn 0xF#4 x 0x65#8

end Sys2Proof.Laws.MatchesRow
end

