-- ==== Sys2Proof/Laws/Stack.lean ====
section
/-! SUPPORT. The call stack: what Push and Pop can do (spec/40 R93, R94). -/

namespace Sys2Proof.Machine

theorem push_cases (s : State) (w : Word) :
    (∃ h : s.sp.val < 16,
      s.push w = some { s with stack := s.stack.set s.sp.val w, sp := ⟨s.sp.val + 1, by omega⟩ }) ∨
    (s.push w = none ∧ s.sp.val = 16) := by
  unfold State.push
  by_cases h : s.sp.val < 16
  · exact .inl ⟨h, by simp [h]⟩
  · exact .inr ⟨by simp [h], by omega⟩

theorem pop_cases (s : State) :
    (∃ h : 0 < s.sp.val,
      s.pop = some (s.stack[s.sp.val - 1], { s with sp := ⟨s.sp.val - 1, by omega⟩ })) ∨
    (s.pop = none ∧ s.sp.val = 0) := by
  unfold State.pop
  by_cases h : 0 < s.sp.val
  · exact .inl ⟨h, by simp [h]⟩
  · exact .inr ⟨by simp [h], by omega⟩

end Sys2Proof.Machine
end

