-- ==== Sys2Proof/Tests/Slice0.lean ====
section
/-! SUPPORT. Tests. Expected values come from the vectors of spec/95_test_vectors.md (their ids stand in the comments) and
from the encodings of spec/30_encoding.md R76; each runs at most one cycle. The witnesses show that the hypotheses of each
statement can be met. -/

namespace Sys2Proof.Tests

open Sys2Proof.Machine

/-! ### Well-formed records (30 R63): a record each check refuses -/

theorem test_wf_accepts : (decodeRecord 0x8AB4#16).wf = true := by decide
theorem test_wf_refuses_x : ({ decodeRecord 0x8AB4#16 with x := 0xB#4 } : Decoded).wf = false := by decide
theorem test_wf_refuses_y : ({ decodeRecord 0x8AB4#16 with y := 0xA#4 } : Decoded).wf = false := by decide
theorem test_wf_refuses_n : ({ decodeRecord 0x8AB4#16 with n := 0x5#4 } : Decoded).wf = false := by decide
theorem test_wf_refuses_nn : ({ decodeRecord 0x8AB4#16 with nn := 0xB5#8 } : Decoded).wf = false := by decide
theorem test_wf_refuses_nnn : ({ decodeRecord 0x8AB4#16 with nnn := 0xAB5#12 } : Decoded).wf = false := by decide
theorem test_wf_refuses_op : ({ decodeRecord 0xFFFF#16 with op := .cls } : Decoded).wf = false := by decide

/-! ### Decoding: a word for every instruction, from its pattern in 30 R76 (and table 2.1 of 95) -/

theorem test_decode_family_0 :
    decode 0x0000#16 = some (.sys 0x0#4) ∧ decode 0x01E0#16 = some (.cls 0x1#4) ∧
    decode 0x0FEE#16 = some (.ret 0xF#4) ∧ decode 0x00E1#16 = none ∧ decode 0x0123#16 = none := by decide
theorem test_decode_families_1_to_7 :
    decode 0x1ABC#16 = some (.jp 0xABC#12) ∧ decode 0x2FFF#16 = some (.call 0xFFF#12) ∧
    decode 0x3A42#16 = some (.seImm 0xA#4 0x42#8) ∧ decode 0x4A42#16 = some (.sneImm 0xA#4 0x42#8) ∧
    decode 0x5AB7#16 = some (.seReg 0xA#4 0xB#4 0x7#4) ∧ decode 0x6005#16 = some (.ldImm 0x0#4 0x05#8) ∧
    decode 0x7003#16 = some (.addImm 0x0#4 0x03#8) := by decide
theorem test_decode_family_8 :
    decode 0x8AB0#16 = some (.ldReg 0xA#4 0xB#4) ∧ decode 0x8AB1#16 = some (.or 0xA#4 0xB#4) ∧
    decode 0x8AB2#16 = some (.and 0xA#4 0xB#4) ∧ decode 0x8AB3#16 = some (.xor 0xA#4 0xB#4) ∧
    decode 0x8AB4#16 = some (.addReg 0xA#4 0xB#4) ∧ decode 0x8AB5#16 = some (.sub 0xA#4 0xB#4) ∧
    decode 0x8AB6#16 = some (.shr 0xA#4 0xB#4) ∧ decode 0x8AB7#16 = some (.subn 0xA#4 0xB#4) ∧
    decode 0x8ABE#16 = some (.shl 0xA#4 0xB#4) ∧ decode 0x8AB8#16 = none ∧ decode 0x8ABF#16 = none := by decide
theorem test_decode_families_9_to_D :
    decode 0x9ABF#16 = some (.sneReg 0xA#4 0xB#4 0xF#4) ∧ decode 0xA050#16 = some (.ldI 0x050#12) ∧
    decode 0xB123#16 = some (.jpV0 0x123#12) ∧ decode 0xC3F0#16 = some (.rnd 0x3#4 0xF0#8) ∧
    decode 0xDABC#16 = some (.drw 0xA#4 0xB#4 0xC#4) := by decide
theorem test_decode_family_E :
    decode 0xE09E#16 = some (.skp 0x0#4) ∧ decode 0xE1A1#16 = some (.sknp 0x1#4) ∧ decode 0xE19F#16 = none := by decide
theorem test_decode_family_F :
    decode 0xF007#16 = some (.ldVxDt 0x0#4) ∧ decode 0xF10A#16 = some (.ldVxK 0x1#4) ∧
    decode 0xF215#16 = some (.ldDtVx 0x2#4) ∧ decode 0xF318#16 = some (.ldStVx 0x3#4) ∧
    decode 0xF41E#16 = some (.addIVx 0x4#4) ∧ decode 0xF529#16 = some (.ldFVx 0x5#4) ∧
    decode 0xF633#16 = some (.ldBVx 0x6#4) ∧ decode 0xF355#16 = some (.ldMemVx 0x3#4) ∧
    decode 0xF765#16 = some (.ldVxMem 0x7#4) ∧ decode 0xF056#16 = none ∧ decode 0xFFFF#16 = none := by decide
theorem test_encode_words :
    encode (.ldReg 0xA#4 0xB#4) = 0x8AB0#16 ∧ encode (.drw 0x0#4 0x1#4 0x5#4) = 0xD015#16 ∧
    encode (.ldMemVx 0x3#4) = 0xF355#16 ∧ encode (.seReg 0x3#4 0x3#4 0x7#4) = 0x5337#16 := by decide
theorem test_decode_bytes_high_first : (decodeBytes [0x60#8, 0x05#8, 0xAA#8]).toOption =
    some (.ldImm 0x0#4 0x05#8, [0xAA#8]) := by decide
theorem test_decode_bytes_refuses_one_byte :
    (match decodeBytes [0x60#8] with | .error e => some e | .ok _ => none) = some (.truncated 1) := by decide
theorem test_decode_bytes_names_unknown :
    (match decodeBytes [0xFF#8, 0xFF#8] with | .error e => some e | .ok _ => none) =
      some (.unknownOpcode 0xFFFF#16) := by decide
theorem test_table_word : decodeTableWord 16 0xF065 = some (.ldVxMem 0x0#4) := by decide

/-! ### One cycle on a small state -/

/-- What `f` reads in the next state, if there is one. -/
def look {α : Type} (o : Host.Outcome State Fault Refusal) (f : State → α) : Option α :=
  match o with
  | .next s => some (f s)
  | _ => none

/-- The conventions of 95: the opcode placed at PC, one cycle. -/
def run (s : State) (op : Word) : Host.Outcome State Fault Refusal := (s.placeOpcode op).cycle

/-- The reset state with two registers set. -/
def regs (x : Nibble) (b : Byte) (y : Nibble) (c : Byte) : State := (State.reset.setV x b).setV y c

/-- The same on SUPERCHIP. -/
def regsS (x : Nibble) (b : Byte) (y : Nibble) (c : Byte) : State := { regs x b y c with variant := .superchip }

/-- The fault record, STATUS and PC. -/
def record (s : State) : Status × FaultKind × Word × Word × Word :=
  (s.status, s.faultKind, s.faultOpcode, s.faultPc, s.pc)

-- F2
theorem test_sys : look (run State.reset 0x0A00#16) (fun s => (s.pc, s.status)) = some (0x0202#16, .running) := by decide
-- F3, F4
theorem test_jp : look (run State.reset 0x1ABC#16) (·.pc) = some 0x0ABC#16 := by decide
theorem test_jp_odd : look (run State.reset 0x1201#16) (·.pc) = some 0x0201#16 := by decide
-- F7, F8
theorem test_call_last : look (run { State.reset with sp := 15 } 0x2300#16)
    (fun s => (s.stack[15], s.sp, s.pc)) = some (0x0202#16, 16, 0x0300#16) := by decide
theorem test_call_full : look (run { State.reset with sp := 16 } 0x2300#16) record =
    some (.faulted, .stackFull, 0x2300#16, 0x0200#16, 0x0202#16) := by decide
-- F11, F10 (with an ignored nibble kept in the record)
theorem test_ret : look (run { State.reset with sp := 2, stack := State.reset.stack.set 1 0x0ABC#16 } 0x05EE#16)
    (fun s => (s.pc, s.sp)) = some (0x0ABC#16, 1) := by decide
theorem test_ret_empty : look (run State.reset 0x07EE#16) record =
    some (.faulted, .stackEmpty, 0x07EE#16, 0x0200#16, 0x0202#16) := by decide
-- F12, F25
theorem test_se_imm : look (run (State.reset.setV 0xA#4 0x42#8) 0x3A42#16) (·.pc) = some 0x0204#16 := by decide
theorem test_se_imm_at_end : look (run { State.reset with pc := 0x0FFC#16 } 0x3000#16)
    (fun s => (s.pc, s.status)) = some (0x1000#16, .running) := by decide
-- F14, F15
theorem test_sne_imm_equal : look (run (State.reset.setV 0xA#4 0x42#8) 0x4A42#16) (·.pc) = some 0x0202#16 := by decide
theorem test_sne_imm : look (run (State.reset.setV 0xA#4 0x43#8) 0x4A42#16) (·.pc) = some 0x0204#16 := by decide
-- F17, F18
theorem test_se_reg_differ : look (run (regs 0x1#4 7#8 0x2#4 8#8) 0x5120#16) (·.pc) = some 0x0202#16 := by decide
theorem test_se_reg_same : look (run (State.reset.setV 0x3#4 9#8) 0x5337#16) (·.pc) = some 0x0204#16 := by decide
-- F20, F21
theorem test_sne_reg : look (run (regs 0x1#4 7#8 0x2#4 8#8) 0x9120#16) (·.pc) = some 0x0204#16 := by decide
theorem test_sne_reg_same : look (run (State.reset.setV 0x3#4 9#8) 0x933F#16) (·.pc) = some 0x0202#16 := by decide
-- F22, F23
theorem test_jp_v0 : look (run (State.reset.setV 0x0#4 0x10#8) 0xB300#16) (·.pc) = some 0x0310#16 := by decide
theorem test_jp_v0_high : look (run (State.reset.setV 0x0#4 0xFF#8) 0xBFFF#16)
    (fun s => (s.pc, s.status)) = some (0x10FE#16, .running) := by decide
-- F24, F27, X7
theorem test_fetch_beyond : look ({ State.reset with pc := 0x10FE#16 } : State).cycle record =
    some (.faulted, .memoryOutOfBounds, 0x0000#16, 0x10FE#16, 0x10FE#16) := by decide
theorem test_fetch_last_byte :
    look ({ State.reset with pc := 0x0FFF#16, mem := [(0xFFF, 0xFF#8)] } : State).cycle record =
    some (.faulted, .memoryOutOfBounds, 0x0000#16, 0x0FFF#16, 0x0FFF#16) := by decide
-- F29
theorem test_odd_pc : look (run { State.reset with pc := 0x0201#16 } 0x6A55#16)
    (fun s => (s.getV 0xA#4, s.pc)) = some (0x55#8, 0x0203#16) := by decide
-- A2
theorem test_ld_imm_vf : look (run State.reset 0x6F07#16) (·.getV 0xF#4) = some 0x07#8 := by decide
-- A3, A4
theorem test_add_imm : look (run (regs 0xA#4 0xFF#8 0xF#4 7#8) 0x7A01#16)
    (fun s => (s.getV 0xA#4, s.getV 0xF#4)) = some (0x00#8, 7#8) := by decide
theorem test_add_imm_vf : look (run (State.reset.setV 0xF#4 0xFE#8) 0x7F03#16) (·.getV 0xF#4) = some 0x01#8 := by decide
-- A6
theorem test_ld_reg : look (run ((regs 0x1#4 1#8 0x2#4 0x99#8).setV 0xF#4 7#8) 0x8120#16)
    (fun s => (s.getV 0x1#4, s.getV 0xF#4)) = some (0x99#8, 7#8) := by decide
-- A14, A15
theorem test_or_vf_chip8 : look (run (regs 0x1#4 0x0F#8 0xF#4 0xF0#8) 0x8F11#16) (·.getV 0xF#4) = some 0x00#8 := by decide
theorem test_or_vf_superchip : look (run (regsS 0x1#4 0x0F#8 0xF#4 0xF0#8) 0x8F11#16) (·.getV 0xF#4) = some 0xFF#8 := by
  decide
-- A10, A11
theorem test_and_chip8 : look (run ((regs 0x1#4 0xF0#8 0x2#4 0x3C#8).setV 0xF#4 7#8) 0x8122#16)
    (fun s => (s.getV 0x1#4, s.getV 0xF#4)) = some (0x30#8, 0#8) := by decide
theorem test_and_superchip : look (run ((regsS 0x1#4 0xF0#8 0x2#4 0x3C#8).setV 0xF#4 7#8) 0x8122#16)
    (fun s => (s.getV 0x1#4, s.getV 0xF#4)) = some (0x30#8, 7#8) := by decide
-- A12, A13
theorem test_xor_chip8 : look (run ((regs 0x1#4 0xFF#8 0x2#4 0xFF#8).setV 0xF#4 7#8) 0x8123#16)
    (fun s => (s.getV 0x1#4, s.getV 0xF#4)) = some (0x00#8, 0#8) := by decide
theorem test_xor_superchip : look (run ((regsS 0x1#4 0xAA#8 0x2#4 0x55#8).setV 0xF#4 7#8) 0x8123#16)
    (fun s => (s.getV 0x1#4, s.getV 0xF#4)) = some (0xFF#8, 7#8) := by decide
-- A23, A21
theorem test_add_reg_vf_source : look (run (regs 0x1#4 0xFF#8 0xF#4 1#8) 0x81F4#16)
    (fun s => (s.getV 0x1#4, s.getV 0xF#4)) = some (0x00#8, 1#8) := by decide
theorem test_add_reg_vf_destination : look (run (regs 0x1#4 100#8 0xF#4 200#8) 0x8F14#16) (·.getV 0xF#4) = some 1#8 := by
  decide
-- A26, A27
theorem test_sub_equal : look (run (regs 0x1#4 5#8 0x2#4 5#8) 0x8125#16)
    (fun s => (s.getV 0x1#4, s.getV 0xF#4)) = some (0#8, 1#8) := by decide
theorem test_sub_borrow : look (run ((regs 0x1#4 5#8 0x2#4 6#8).setV 0xF#4 1#8) 0x8125#16)
    (fun s => (s.getV 0x1#4, s.getV 0xF#4)) = some (255#8, 0#8) := by decide
-- A33, A34
theorem test_subn_borrow : look (run ((regs 0x1#4 6#8 0x2#4 5#8).setV 0xF#4 1#8) 0x8127#16)
    (fun s => (s.getV 0x1#4, s.getV 0xF#4)) = some (255#8, 0#8) := by decide
theorem test_subn : look (run (regs 0x1#4 1#8 0x2#4 0x10#8) 0x8127#16)
    (fun s => (s.getV 0x1#4, s.getV 0xF#4)) = some (0x0F#8, 1#8) := by decide
-- A36, A37
theorem test_shr_chip8 : look (run (regs 0x1#4 0xAA#8 0x2#4 0x03#8) 0x8126#16)
    (fun s => (s.getV 0x1#4, s.getV 0xF#4)) = some (0x01#8, 1#8) := by decide
theorem test_shr_superchip : look (run (regsS 0x1#4 0xAA#8 0x2#4 0x03#8) 0x8126#16)
    (fun s => (s.getV 0x1#4, s.getV 0xF#4)) = some (0x55#8, 0#8) := by decide
-- A43, A44
theorem test_shl_chip8 : look (run (regs 0x1#4 0x01#8 0x2#4 0xC0#8) 0x812E#16)
    (fun s => (s.getV 0x1#4, s.getV 0xF#4)) = some (0x80#8, 1#8) := by decide
theorem test_shl_superchip : look (run (regsS 0x1#4 0x01#8 0x2#4 0xC0#8) 0x812E#16)
    (fun s => (s.getV 0x1#4, s.getV 0xF#4)) = some (0x02#8, 0#8) := by decide
-- A49, A52
theorem test_rnd : look (run { State.reset with randByte := 0xFF#8 } 0xC30F#16) (·.getV 0x3#4) = some 0x0F#8 := by decide
theorem test_rnd_vf : look (run { State.reset with randByte := 0x5A#8 } 0xCFF0#16) (·.getV 0xF#4) = some 0x50#8 := by
  decide
-- M2
theorem test_ld_i : look (run State.reset 0xAFFF#16) (·.i) = some 0x0FFF#16 := by decide
-- M3, M4
theorem test_add_i : look (run { regs 0x1#4 1#8 0xF#4 7#8 with i := 0x0FFF#16 } 0xF11E#16)
    (fun s => (s.i, s.getV 0xF#4)) = some (0x1000#16, 7#8) := by decide
theorem test_add_i_wraps : look (run { State.reset.setV 0x1#4 1#8 with i := 0xFFFF#16 } 0xF11E#16) (·.i) =
    some 0x0000#16 := by decide
-- M7
theorem test_ld_f : look (run { State.reset.setV 0x0#4 5#8 with i := 0x0123#16 } 0xF029#16)
    (fun s => (record s, s.i)) =
    some ((.faulted, .unimplemented, 0xF029#16, 0x0200#16, 0x0202#16), 0x0123#16) := by decide
-- M12, M13
theorem test_ld_b_last : look (run { State.reset.setV 0x1#4 123#8 with i := 0x0FFD#16 } 0xF133#16)
    (fun s => (s.mem.read 0xFFD, s.mem.read 0xFFE, s.mem.read 0xFFF, s.i)) = some (1#8, 2#8, 3#8, 0x0FFD#16) := by decide
theorem test_ld_b_beyond : look (run { State.reset.setV 0x1#4 123#8 with i := 0x0FFE#16 } 0xF133#16)
    (fun s => (record s, s.mem.read 0xFFE)) =
    some ((.faulted, .memoryOutOfBounds, 0xF133#16, 0x0200#16, 0x0202#16), 0#8) := by decide
-- M18, M16
theorem test_dump_chip8 : look (run { regs 0x0#4 1#8 0xF#4 0xEE#8 with i := 0x0FF0#16 } 0xFF55#16)
    (fun s => (s.mem.read 0xFF0, s.mem.read 0xFFF, s.i)) = some (1#8, 0xEE#8, 0x1000#16) := by decide
theorem test_dump_superchip : look (run { regsS 0x0#4 1#8 0x3#4 4#8 with i := 0x0300#16 } 0xF355#16)
    (fun s => (s.mem.read 0x300, s.mem.read 0x303, s.i)) = some (1#8, 4#8, 0x0300#16) := by decide
-- M22, M25
theorem test_load_chip8 :
    look (run { State.reset.setV 0x3#4 0x99#8 with
        i := 0x0300#16, mem := [(0x300, 0x11#8), (0x301, 0x22#8), (0x302, 0x33#8), (0x303, 0x44#8)] } 0xF265#16)
      (fun s => (s.getV 0x0#4, s.getV 0x2#4, s.getV 0x3#4, s.i)) = some (0x11#8, 0x33#8, 0x99#8, 0x0303#16) := by decide
theorem test_load_beyond : look (run { regs 0x0#4 5#8 0x1#4 6#8 with i := 0x0FFF#16 } 0xF165#16)
    (fun s => (record s, s.getV 0x0#4)) =
    some ((.faulted, .memoryOutOfBounds, 0xF165#16, 0x0200#16, 0x0202#16), 5#8) := by decide
-- G1
theorem test_cls : look (run { State.reset.setV 0xF#4 1#8 with fb := State.reset.fb.xorWrite 63 31 } 0x00E0#16)
    (fun s => (s.fb.pixel 63 31, s.getV 0xF#4)) = some (false, 1#8) := by decide
-- G4, G3
theorem test_drw_clips_right : look (run { State.reset.setV 0x0#4 60#8 with i := 0x0300#16, mem := [(0x300, 0xFF#8)] } 0xD011#16)
    (fun s => (s.fb.pixel 60 0, s.fb.pixel 63 0, s.fb.pixel 0 0, s.getV 0xF#4)) = some (true, true, false, 0#8) := by decide
theorem test_drw_collides :
    look (run { State.reset with i := 0x0300#16, mem := [(0x300, 0xC0#8)], fb := State.reset.fb.xorWrite 1 0 } 0xD011#16)
      (fun s => (s.fb.pixel 0 0, s.fb.pixel 1 0, s.getV 0xF#4)) = some (true, false, 1#8) := by decide
-- T2
theorem test_ld_vx_dt : look (run { State.reset with dt := 5#8, tickDue := true } 0xF307#16)
    (fun s => (s.dt, s.getV 0x3#4)) = some (4#8, 4#8) := by decide
-- T5
theorem test_ld_dt : look (run { State.reset.setV 0x3#4 60#8 with dt := 7#8, st := 1#8, tickDue := true } 0xF315#16)
    (fun s => (s.dt, s.st)) = some (60#8, 0#8) := by decide
-- T6
theorem test_ld_st : look (run (State.reset.setV 0x4#4 2#8) 0xF418#16) (·.st) = some 2#8 := by decide
-- T9, T13
theorem test_skp : look (run { State.reset.setV 0x2#4 0x0A#8 with keys := 0x0400#16 } 0xE29E#16) (·.pc) =
    some 0x0204#16 := by decide
theorem test_skp_bad : look (run { State.reset.setV 0x2#4 0x10#8 with keys := 0x0001#16 } 0xE29E#16) record =
    some (.faulted, .badKeyIndex, 0xE29E#16, 0x0200#16, 0x0202#16) := by decide
-- T11, T12
theorem test_sknp : look (run (State.reset.setV 0x2#4 0x0A#8) 0xE2A1#16) (·.pc) = some 0x0204#16 := by decide
theorem test_sknp_down : look (run { State.reset.setV 0x2#4 0x0A#8 with keys := 0x0400#16 } 0xE2A1#16) (·.pc) =
    some 0x0202#16 := by decide
-- T20, T17
theorem test_ld_k_waits : look (run { State.reset with dt := 3#8, tickDue := true } 0xF50A#16)
    (fun s => (s.dt, s.pc)) = some (2#8, 0x0200#16) := by decide
theorem test_ld_k_least : look (run { State.reset with pc := 0x0210#16, keys := 0x0048#16 } 0xF50A#16)
    (fun s => (s.getV 0x5#4, s.pc)) = some (3#8, 0x0212#16) := by decide
-- T3, T7: the tick stops at 0
theorem test_tick : look (run { State.reset with st := 255#8, tickDue := true } 0x0000#16)
    (fun s => (s.dt, s.st)) = some (0#8, 254#8) := by decide
-- X1, X6
theorem test_unknown_keeps_tick : look (run { State.reset with dt := 2#8, tickDue := true } 0xFFFF#16)
    (fun s => (record s, s.dt)) =
    some ((.faulted, .unknownOpcode, 0xFFFF#16, 0x0200#16, 0x0202#16), 1#8) := by decide
theorem test_faulted_ignores_cycle :
    look ({ State.reset with status := .faulted, dt := 9#8, tickDue := true } : State).cycle (·.dt) = some 9#8 := by decide
-- Z5, Z4 (the byte after the last that fits), R199
theorem test_load_rom : ((State.load [0x60#8, 0x05#8] .superchip).mem.read 0x201,
    (State.load [0x60#8, 0x05#8] .superchip).variant) = (0x05#8, .superchip) := by decide
theorem test_set_key : ((State.reset.setKey 0x7#4 true).keys, ((State.reset.setKey 0x7#4 true).setKey 0x7#4 false).keys) =
    (0x0080#16, 0x0000#16) := by decide
-- 10 R30, 60 R180: the codes the host reads
theorem test_host_view :
    look (run State.reset 0x00EE#16) (fun s => (s.hostView.status, s.hostView.faultKind, s.hostView.faultPc)) =
    some (1#1, 5#3, 0x0200#16) := by decide
-- The step fetches what withFetchWord placed.
theorem test_step_from_reset : look (step (State.reset.withFetchWord 16 0x6005))
    (fun s => (s.getV 0x0#4, s.pc, s.status)) = some (0x05#8, 0x0202#16, .running) := by decide
theorem test_step_draws_from_reset : look (step (State.reset.withFetchWord 16 0xD001))
    (fun s => (s.pc, s.status)) = some (0x0202#16, .running) := by decide

/-! ### Witnesses: the hypotheses of each statement can be met, at the edges of its clauses -/

theorem test_witness_EncodeOfDecode : decode 0x6005#16 = some (.ldImm 0x0#4 0x05#8) := by decide
theorem test_witness_OpcodeMapExact : 0x0FEE#16 &&& Tag.ret.mask = Tag.ret.pattern := by decide
theorem test_witness_DecodedRecordFields :
    (decodeRecord 0xF065#16).valid = true ∧ (decodeRecord 0xF066#16).valid = false := by decide
theorem test_witness_LoadGivesResetState : (0x1FF < 4096 ∧ ¬ 0x200 ≤ 0x1FF) ∧
    (0x200 ≤ 0xFFF ∧ 0xFFF - 0x200 < min (List.replicate 3585 0xAA#8).length 3584) ∧ (63 < 64 ∧ 31 < 32) := by
  rw [List.length_replicate]; decide

/-- A state the invariants hold in, other than State.reset. -/
def parked : State := { State.reset with pc := 0x0FFE#16, sp := 1, stack := State.reset.stack.set 0 0x1000#16 }

theorem parked_inv : parked.Inv where
  memory := by decide
  pcBound := by decide
  returnAddresses := by decide
  faultKind := by decide
  faultRecord := by decide

theorem test_witness_StepKeepsInvariants : parked.Inv ∧ ∃ t, step parked = .next t := ⟨parked_inv, _, rfl⟩
theorem test_witness_StepRunsDecodedInstruction : parked.status = .running ∧ parked.pc.toNat ≤ 4094 ∧
    decode (parked.mem.read parked.pc.toNat ++ parked.mem.read (parked.pc.toNat + 1)) = some (.sys 0x0#4) := by decide
theorem test_witness_FaultedCoreChangesNothing :
    ({ State.reset with status := .faulted } : State).status = .faulted := by decide
theorem test_witness_FetchFaultEntry : ({ State.reset with pc := 0x0FFF#16 } : State).status = .running ∧
    4094 < ({ State.reset with pc := 0x0FFF#16 } : State).pc.toNat := by decide
theorem test_witness_UnknownOpcodeEntry : (State.reset.placeOpcode 0xFFFF#16).status = .running ∧
    (State.reset.placeOpcode 0xFFFF#16).fetch = some 0xFFFF#16 ∧ decode 0xFFFF#16 = none := by decide
theorem test_witness_FaultsArePrecise : (State.reset.placeOpcode 0x05EE#16).status = .running ∧
    ∃ t, (State.reset.placeOpcode 0x05EE#16).cycle = .next t ∧ t.status = .faulted := ⟨by decide, _, rfl, by decide⟩
theorem test_witness_FaultConditionsExact :
    State.reset.pc = 0x01FE#16 + 2#16 ∧ (∃ t, exec (.ret 0x0#4) State.reset = .next t) ∧
    faultOf (.ret 0x0#4) State.reset ≠ .none ∧ (∃ t, exec (.sys 0x0#4) State.reset = .next t) ∧
    faultOf (.sys 0x0#4) State.reset = .none := ⟨by decide, ⟨_, rfl⟩, by decide, ⟨_, rfl⟩, by decide⟩
theorem test_witness_TimersTickOncePerCycle : State.reset.status = .running ∧ ∃ t, State.reset.cycle = .next t :=
  ⟨rfl, _, rfl⟩
theorem test_witness_TerminalStateIsParked : terminal (State.reset.placeOpcode 0x1200#16) = true := by decide
theorem test_witness_FetchBigEndian : 4094 < ({ State.reset with pc := 0x0FFF#16 } : State).pc.toNat ∧
    ({ State.reset with pc := 0x0FFE#16 } : State).pc.toNat ≤ 4094 := by decide
theorem test_witness_MemReadChecksWholeRange :
    (4095 < (0x0FF1#16 : Word).toNat + 16 - 1) ∧ ((0x0FF0#16 : Word).toNat + 16 - 1 ≤ 4095) := by decide
theorem test_witness_MemWriteAllOrNothing : State.reset.mem.wf = true ∧
    (4095 < (0x0FFF#16 : Word).toNat + [1#8, 2#8].length - 1) ∧
    ((0x0FFE#16 : Word).toNat + [1#8, 2#8].length - 1 ≤ 4095) := by decide
theorem test_witness_StoreSeenByNextFetch :
    State.reset.mem.wf = true ∧ ∃ t, State.reset.memWrite State.reset.pc [0x61#8, 0x2A#8] = some t := ⟨rfl, _, rfl⟩
theorem test_witness_InstructionWriteSets : (∃ t, exec (.sys 0x0#4) State.reset = .next t) ∧
    (Instr.sys 0x0#4).tag ∉ [Tag.cls, .drw, .call, .ret, .ldBVx, .ldMemVx, .ldDtVx, .ldStVx, .ldI, .addIVx, .ldVxMem] :=
  ⟨⟨_, rfl⟩, by decide⟩
theorem test_witness_VariantMattersOnlyForQuirks : (∃ t, exec (.rnd 0x1#4 0xFF#8) State.reset = .next t) ∧
    (Instr.rnd 0x1#4 0xFF#8).tag ∉ [Tag.or, .and, .xor, .shr, .shl, .ldMemVx, .ldVxMem] := ⟨⟨_, rfl⟩, by decide⟩
theorem test_witness_RandByteReadByRndOnly : (∃ t, exec (.ldMemVx 0x0#4) State.reset = .next t) ∧
    (Instr.ldMemVx 0x0#4).tag ≠ .rnd := ⟨⟨_, rfl⟩, by decide⟩

/-- S4: CALL 0x204 at 0x200, RET at 0x204. -/
def callRet : State := State.load [0x22#8, 0x04#8, 0x12#8, 0x02#8, 0x00#8, 0xEE#8] .chip8

theorem test_witness_CallThenReturn : callRet.sp.val < 16 ∧ callRet.status = .running ∧
    callRet.fetch = some (0x2#4 ++ 0x204#12) ∧
    look callRet.cycle (·.fetch) = some (some (0x0#4 ++ 0x0#4 ++ 0xEE#8)) := by decide
theorem test_witness_PushAndPop :
    ({ State.reset with sp := 16 } : State).sp.val = 16 ∧ ({ State.reset with sp := 15 } : State).sp.val < 16 ∧
    State.reset.sp.val = 0 ∧ ({ State.reset with sp := 16 } : State).sp.val = (15 : Fin 16).val + 1 := by decide
theorem test_witness_CompositePixelByPixel : 63 < 64 ∧ 31 < 32 ∧ spriteBit 62#8 31#8 [0xFF#8, 0xFF#8] 63 31 = true ∧
    spriteBit 62#8 31#8 [0xFF#8, 0xFF#8] 0 31 = false := by decide
theorem test_witness_RetPopsOrFaults :
    ({ State.reset with sp := 1 } : State).sp.val = (0 : Fin 16).val + 1 ∧ State.reset.sp.val = 0 ∧
    State.reset.pc = 0x01FE#16 + 2#16 := by decide
theorem test_witness_CallPushesOrFaults : ({ State.reset with sp := 15 } : State).sp.val < 16 ∧
    ({ State.reset with sp := 16 } : State).sp.val = 16 ∧ State.reset.pc = 0x01FE#16 + 2#16 := by decide
theorem test_witness_LogicOperations :
    State.reset.variant = .chip8 ∧ (regsS 0x1#4 0#8 0x2#4 0#8).variant = .superchip := by decide
theorem test_witness_ShiftsByOne : (0x2#4 : Nibble) = (if State.reset.variant = .chip8 then 0x2#4 else 0x1#4) ∧
    (0x1#4 : Nibble) = (if (regsS 0x1#4 0#8 0x2#4 0#8).variant = .chip8 then 0x2#4 else 0x1#4) := by decide
theorem test_witness_FontInstructionFaults : State.reset.pc = 0x01FE#16 + 2#16 := by decide

/-- The reset state with another I. -/
def withI (w : Word) : State := { State.reset with i := w }

theorem test_witness_BcdStoredOrFaults : (withI 0x0FFD#16).mem.wf = true ∧ (withI 0x0FFD#16).i.toNat + 2 ≤ 4095 ∧
    (withI 0x0FFE#16).mem.wf = true ∧ 4095 < (withI 0x0FFE#16).i.toNat + 2 ∧
    (withI 0x0FFE#16).pc = 0x01FE#16 + 2#16 := by decide
theorem test_witness_RegisterDumpOrFaults : (withI 0x0FF0#16).mem.wf = true ∧
    (withI 0x0FF0#16).i.toNat + (0xF#4 : Nibble).toNat ≤ 4095 ∧ (withI 0x0FF0#16).variant = .chip8 ∧
    ({ withI 0x0FF0#16 with variant := .superchip } : State).variant = .superchip ∧
    4095 < (withI 0x0FF1#16).i.toNat + (0xF#4 : Nibble).toNat ∧ (withI 0x0FF1#16).pc = 0x01FE#16 + 2#16 := by decide
theorem test_witness_RegisterLoadOrFaults : (withI 0x0FFF#16).i.toNat + (0x0#4 : Nibble).toNat ≤ 4095 ∧
    4095 < (withI 0x0FFF#16).i.toNat + (0x1#4 : Nibble).toNat ∧ (withI 0x0FFF#16).pc = 0x01FE#16 + 2#16 := by decide
theorem test_witness_SpriteDrawOrFaults : ((0x0#4 : Nibble).toNat = 0 ∧ 4095 < (withI 0xFFFF#16).i.toNat) ∧
    (withI 0x0FFE#16).i.toNat + (0x2#4 : Nibble).toNat - 1 ≤ 4095 ∧
    (0 < (0x3#4 : Nibble).toNat ∧ 4095 < (withI 0x0FFE#16).i.toNat + (0x3#4 : Nibble).toNat - 1) ∧
    (withI 0x0FFE#16).pc = 0x01FE#16 + 2#16 := by decide
theorem test_witness_TimerMoves : (State.reset.placeOpcode 0xF307#16).status = .running ∧
    (State.reset.placeOpcode 0xF307#16).fetch = some (0xF#4 ++ 0x3#4 ++ 0x07#8) ∧
    (State.reset.placeOpcode 0xF315#16).fetch = some (0xF#4 ++ 0x3#4 ++ 0x15#8) ∧
    (State.reset.placeOpcode 0xF318#16).fetch = some (0xF#4 ++ 0x3#4 ++ 0x18#8) := by decide
theorem test_witness_KeySkipsOrFault : ((State.reset.setV 0x2#4 15#8).getV 0x2#4).toNat ≤ 15 ∧
    15 < ((State.reset.setV 0x2#4 16#8).getV 0x2#4).toNat ∧ State.reset.pc = 0x01FE#16 + 2#16 := by decide
theorem test_witness_WaitForKey : State.reset.keys = 0#16 ∧ State.reset.pc = 0x01FE#16 + 2#16 ∧
    (0x0048#16 : Word).getLsbD 3 = true ∧ ∀ j, j < 3 → (0x0048#16 : Word).getLsbD j = false := by decide

end Sys2Proof.Tests
end

section
/-! PROOFS. What an executing instruction can do to the state, said once (spec/40 R92), and the invariants of
spec/10 R29, which every step keeps. -/

namespace Sys2Proof.Machine

/-! ### The effect of an instruction -/

/-- `Effect s i t`: `t` is a state that `i` may answer from `s`, by the pieces of state that its class of instructions
writes. A branch target is bounded only where PC is past an opcode that could be fetched. -/
inductive Effect (s : State) (i : Instr) (t : State) : Prop where
  | fault (k : FaultKind) (hk : k ≠ .none) (h : t = s.raise k i)
  | registers (v : Vector Byte 16) (h : t = { s with v := v })
  | branch (pc : Word) (bound : 2 ≤ s.pc.toNat → s.pc.toNat ≤ 4096 → pc.toNat ≤ 0x10FE) (h : t = { s with pc := pc })
  | call (hi : i.tag = .call) (nnn : Addr12) (hsp : s.sp.val < 16)
      (h : t = { s with
        stack := s.stack.set s.sp.val s.pc, sp := ⟨s.sp.val + 1, by omega⟩, pc := nnn.setWidth 16 })
  | ret (hi : i.tag = .ret) (hsp : 0 < s.sp.val)
      (h : t = { s with sp := ⟨s.sp.val - 1, by omega⟩, pc := s.stack[s.sp.val - 1] })
  | index (hi : i.tag ∈ [Tag.ldI, .addIVx, .ldVxMem]) (v : Vector Byte 16) (w : Word) (h : t = { s with v := v, i := w })
  | store (hi : i.tag ∈ [Tag.ldBVx, .ldMemVx]) (bytes : List Byte) (w : Word)
      (fits : bytes.length = 0 ∨ s.i.toNat + bytes.length - 1 ≤ 4095) (hw : i.tag ≠ .ldMemVx → w = s.i)
      (h : t = { s with mem := s.mem.writeBytes s.i.toNat bytes, i := w })
  | screen (hi : i.tag ∈ [Tag.cls, .drw]) (v : Vector Byte 16) (fb : Framebuffer) (h : t = { s with v := v, fb := fb })
  | delayTimer (hi : i.tag = .ldDtVx) (b : Byte) (h : t = { s with dt := b })
  | soundTimer (hi : i.tag = .ldStVx) (b : Byte) (h : t = { s with st := b })

/-- A 12-bit target is inside memory, so within the bound on PC. -/
theorem toNat_jumpTarget_le (nnn : Addr12) : (nnn.setWidth 16).toNat ≤ 0x10FE := by
  have := nnn.isLt
  simp
  omega

/-- The largest PC of all: `JP V0` at NNN = 0xFFF with V[0] = 0xFF (40 R103). -/
theorem toNat_jumpV0Target_le (nnn : Addr12) (b : Byte) : (nnn.setWidth 16 + b.setWidth 16).toNat ≤ 0x10FE := by
  have := nnn.isLt
  have := b.isLt
  simp
  omega

theorem effect_skipIf (s : State) (i : Instr) (c : Bool) : Effect s i (s.skipIf c) := by
  refine .branch _ (fun _ hi => ?_) (skipIf_eq s c)
  cases c <;> simp <;> omega

/-- The register load writes registers and I, nothing else (42 R142). -/
theorem setRegs_postIncrement_eq (s : State) (x : Nibble) (bytes : List Byte) :
    (s.setRegs 0 bytes).postIncrement x =
      { s with v := (s.setRegs 0 bytes).v, i := ((s.setRegs 0 bytes).postIncrement x).i } := by
  rw [postIncrement_eq, setRegs_eq]

/-- The common shape of SKP and SKNP (44 R168, R169): skip if the key that V[x] names meets `c`, or BadKeyIndex. -/
def keySkip (i : Instr) (x : Nibble) (c : Nibble → Bool) (s : State) : Host.Outcome State Fault Refusal :=
  match keyIndex (s.getV x) with
  | some k => .next (s.skipIf (c k))
  | none => .next (s.raise .badKeyIndex i)

theorem exec_skp (x : Nibble) (s : State) : exec (.skp x) s = keySkip (.skp x) x s.keyDown s := rfl

theorem exec_sknp (x : Nibble) (s : State) : exec (.sknp x) s = keySkip (.sknp x) x (fun k => !s.keyDown k) s := rfl

theorem keySkip_effect (s : State) (i : Instr) (x : Nibble) (c : Nibble → Bool) :
    ∃ t, keySkip i x c s = .next t ∧ Effect s i t := by
  cases hk : keyIndex (s.getV x) with
  | some k => exact ⟨_, by rw [keySkip, hk], effect_skipIf s i _⟩
  | none => exact ⟨_, by rw [keySkip, hk], .fault .badKeyIndex (by decide) rfl⟩

/-- Every instruction answers a next state, and that state is an effect of its class. -/
theorem exec_effect (i : Instr) (s : State) : ∃ t, exec i s = .next t ∧ Effect s i t := by
  cases i with
  | sys ign => exact ⟨_, rfl, .registers s.v rfl⟩
  | cls ign => exact ⟨_, rfl, .screen (by simp [Instr.tag]) s.v _ rfl⟩
  | ret ign =>
    rcases pop_cases s with ⟨hsp, h⟩ | ⟨h, -⟩
    · exact ⟨_, by rw [exec, execRet, h]; rfl, .ret rfl hsp rfl⟩
    · exact ⟨_, by rw [exec, execRet, h], .fault .stackEmpty (by decide) rfl⟩
  | jp nnn => exact ⟨_, rfl, .branch _ (fun _ _ => toNat_jumpTarget_le nnn) rfl⟩
  | call nnn =>
    rcases push_cases s s.pc with ⟨hsp, h⟩ | ⟨h, -⟩
    · exact ⟨_, by rw [exec, execCall, h]; rfl, .call rfl nnn hsp rfl⟩
    · exact ⟨_, by rw [exec, execCall, h], .fault .stackFull (by decide) rfl⟩
  | seImm x nn => exact ⟨_, rfl, effect_skipIf s _ _⟩
  | sneImm x nn => exact ⟨_, rfl, effect_skipIf s _ _⟩
  | seReg x y ign => exact ⟨_, rfl, effect_skipIf s _ _⟩
  | ldImm x nn => exact ⟨_, rfl, .registers _ rfl⟩
  | addImm x nn => exact ⟨_, rfl, .registers _ rfl⟩
  | ldReg x y => exact ⟨_, rfl, .registers _ rfl⟩
  | or x y => exact ⟨_, rfl, .registers _ (setLogicResult_eq s x _)⟩
  | and x y => exact ⟨_, rfl, .registers _ (setLogicResult_eq s x _)⟩
  | xor x y => exact ⟨_, rfl, .registers _ (setLogicResult_eq s x _)⟩
  | addReg x y => exact ⟨_, rfl, .registers _ rfl⟩
  | sub x y => exact ⟨_, rfl, .registers _ rfl⟩
  | shr x y => exact ⟨_, rfl, .registers _ rfl⟩
  | subn x y => exact ⟨_, rfl, .registers _ rfl⟩
  | shl x y => exact ⟨_, rfl, .registers _ rfl⟩
  | sneReg x y ign => exact ⟨_, rfl, effect_skipIf s _ _⟩
  | ldI nnn => exact ⟨_, rfl, .index (by simp [Instr.tag]) s.v _ rfl⟩
  | jpV0 nnn => exact ⟨_, rfl, .branch _ (fun _ _ => toNat_jumpV0Target_le nnn _) rfl⟩
  | rnd x nn => exact ⟨_, rfl, .registers _ rfl⟩
  | drw x y n =>
    rcases memRead_cases s s.i n.toNat with ⟨h, -⟩ | ⟨h, -⟩
    · exact ⟨_, by rw [exec, execDrw, h], .fault .memoryOutOfBounds (by decide) rfl⟩
    · exact ⟨_, by rw [exec, execDrw, h]; rfl, .screen (by simp [Instr.tag]) _ _ rfl⟩
  | skp x => exact exec_skp x s ▸ keySkip_effect s _ x _
  | sknp x => exact exec_sknp x s ▸ keySkip_effect s _ x _
  | ldVxDt x => exact ⟨_, rfl, .registers _ rfl⟩
  | ldVxK x =>
    refine ⟨_, rfl, ?_⟩
    cases s.firstKey with
    | some k => exact .registers _ rfl
    | none => exact .branch _ (fun hlo hhi => by simp; omega) rfl
  | ldDtVx x => exact ⟨_, rfl, .delayTimer rfl _ rfl⟩
  | ldStVx x => exact ⟨_, rfl, .soundTimer rfl _ rfl⟩
  | addIVx x => exact ⟨_, rfl, .index (by simp [Instr.tag]) s.v _ rfl⟩
  | ldFVx x => exact ⟨_, rfl, .fault .unimplemented (by decide) rfl⟩
  | ldBVx x =>
    rcases memWrite_cases s s.i [(bcd (s.getV x)).1, (bcd (s.getV x)).2.1, (bcd (s.getV x)).2.2] with
      ⟨h, -⟩ | ⟨h, fits⟩
    · exact ⟨_, by rw [exec, execLdBVx, h], .fault .memoryOutOfBounds (by decide) rfl⟩
    · exact ⟨_, by rw [exec, execLdBVx, h], .store (by simp [Instr.tag]) _ s.i fits (fun _ => rfl) rfl⟩
  | ldMemVx x =>
    rcases memWrite_cases s s.i (s.regBlock x) with ⟨h, -⟩ | ⟨h, fits⟩
    · exact ⟨_, by rw [exec, execLdMemVx, h], .fault .memoryOutOfBounds (by decide) rfl⟩
    · exact ⟨_, by rw [exec, execLdMemVx, h],
        .store (by simp [Instr.tag]) _ _ fits (fun hi => absurd rfl hi) (postIncrement_eq _ x)⟩
  | ldVxMem x =>
    rcases memRead_cases s s.i (x.toNat + 1) with ⟨h, -⟩ | ⟨h, -⟩
    · exact ⟨_, by rw [exec, execLdVxMem, h], .fault .memoryOutOfBounds (by decide) rfl⟩
    · exact ⟨_, by rw [exec, execLdVxMem, h], .index (by simp [Instr.tag]) _ _ (setRegs_postIncrement_eq s x _)⟩

theorem effect_of_exec {i : Instr} {s t : State} (h : exec i s = .next t) : Effect s i t := by
  obtain ⟨u, hu, he⟩ := exec_effect i s
  cases h.symm.trans hu
  exact he

/-! ### The invariants of 10 R29 -/

/-- The host's part of a step writes nothing that an invariant reads. -/
theorem State.Inv.hostInputs {s : State} (hs : s.Inv) : s.hostInputs.Inv := { hs with }

theorem State.Inv.tickTimers {s : State} (hs : s.Inv) : s.tickTimers.Inv := { hs with }

theorem State.Inv.setPc {s : State} (hs : s.Inv) {w : Word} (hw : w.toNat ≤ 0x10FE) : (s.setPc w).Inv :=
  { hs with pcBound := hw }

theorem State.Inv.faultEntry {s : State} (hs : s.Inv) {k : FaultKind} (hk : k ≠ .none) (op a : Word) :
    (s.faultEntry k op a).Inv :=
  { hs with
    faultKind := by simp [hk]
    faultRecord := by simp }

/-- PC after a fetch that did not fault: past the opcode, at most one past the last byte (40 R91). -/
theorem pc_advancePc_bounds {s : State} (h : s.pc.toNat ≤ 4094) :
    2 ≤ s.advancePc.pc.toNat ∧ s.advancePc.pc.toNat ≤ 4096 := by
  rw [advancePc_pc, BitVec.toNat_add]
  simp
  omega

theorem State.Inv.advancePc {s : State} (hs : s.Inv) (h : s.pc.toNat ≤ 4094) : s.advancePc.Inv :=
  hs.setPc ((pc_advancePc_bounds h).2.trans (by decide))

/-- Pushing a fetch address plus 2 keeps every entry in use such an address. -/
theorem returnAddresses_push {s : State} (hs : s.Inv) (hsp : s.sp.val < 16) {w : Word} (hlo : 2 ≤ w.toNat)
    (hhi : w.toNat ≤ 4096) (k : Fin 16) (hk : k.val < s.sp.val + 1) :
    2 ≤ (s.stack.set s.sp.val w)[k].toNat ∧ (s.stack.set s.sp.val w)[k].toNat ≤ 4096 := by
  by_cases h : s.sp.val = k.val
  · simp [h, hlo, hhi]
  · simpa [Vector.getElem_set, h] using hs.returnAddresses k (by omega)

/-- No effect of an instruction breaks an invariant, where PC is past an opcode that could be fetched. -/
theorem Effect.inv {s t : State} {i : Instr} (he : Effect s i t) (hs : s.Inv) (hlo : 2 ≤ s.pc.toNat)
    (hhi : s.pc.toNat ≤ 4096) : t.Inv := by
  cases he with
  | fault k hk h => exact h ▸ hs.faultEntry hk _ _
  | registers v h => exact h ▸ { hs with }
  | branch pc bound h => exact h ▸ hs.setPc (bound hlo hhi)
  | call hi nnn hsp h =>
    exact h ▸ { hs with
      pcBound := toNat_jumpTarget_le nnn
      returnAddresses := returnAddresses_push hs hsp hlo hhi }
  | ret hi hsp h =>
    have top := hs.returnAddresses ⟨s.sp.val - 1, by omega⟩ (by simp; omega)
    exact h ▸ { hs with
      pcBound := top.2.trans (by decide)
      returnAddresses := fun k hk => hs.returnAddresses k (by simp at hk; omega) }
  | index hi v w h => exact h ▸ { hs with }
  | store hi bytes w fits hw h =>
    have wf : (s.mem.writeBytes s.i.toNat bytes).wf = true := by
      cases bytes with
      | nil => exact hs.memory
      | cons b rest => exact wf_writeBytes _ hs.memory _ _ (by simp [Config.memSize] at fits ⊢; omega)
    exact h ▸ { hs with memory := wf }
  | screen hi v fb h => exact h ▸ { hs with }
  | delayTimer hi b h => exact h ▸ { hs with }
  | soundTimer hi b h => exact h ▸ { hs with }

theorem pc_le_of_fetch {s : State} {op : Word} (h : s.fetch = some op) : s.pc.toNat ≤ 4094 := by
  rcases fetch_cases s with ⟨hn, -⟩ | ⟨-, hpc⟩
  · simp [hn] at h
  · exact hpc

theorem cycle_keeps_inv {s t : State} (hs : s.Inv) (h : s.cycle = .next t) : t.Inv := by
  rcases cycle_cases s with ⟨-, hc⟩ | ⟨-, -, hc⟩ | ⟨op, -, hf, -, hc⟩ | ⟨op, i, -, hf, -, hc⟩
  · cases hc.symm.trans h
    exact hs
  · cases hc.symm.trans h
    exact hs.tickTimers.faultEntry (by decide) _ _
  · cases hc.symm.trans h
    exact (hs.tickTimers.advancePc (pc_le_of_fetch hf)).faultEntry (by decide) _ _
  · have hpc := pc_le_of_fetch hf
    obtain ⟨hlo, hhi⟩ := pc_advancePc_bounds (s := s.tickTimers) hpc
    exact (effect_of_exec (hc.symm.trans h)).inv (hs.tickTimers.advancePc hpc) hlo hhi

/-- Settles O11: the host's inputs and the cycle both keep the invariants. -/
theorem stepKeepsInvariants : Obligations.StepKeepsInvariants := by
  intro s t hs h
  exact cycle_keeps_inv hs.hostInputs (step_eq s ▸ h)

end Sys2Proof.Machine
end

section
/-! PROOFS. The write sets of the instructions (spec/10 R12 to R19), and what reads VARIANT (R23, R220). -/

namespace Sys2Proof.Machine

/-- Settles O27: a state that exec answers is an effect of the instruction's class, and each class writes its own pieces
of state only. -/
theorem instructionWriteSets : Obligations.InstructionWriteSets := by
  intro i s t h
  cases effect_of_exec h with
  | fault k hk h => subst h; simp [sameMemory]
  | registers v h => subst h; simp [sameMemory]
  | branch pc bound h => subst h; simp [sameMemory]
  | call hi nnn hsp h => subst h; simp [sameMemory, hi]
  | ret hi hsp h => subst h; simp [sameMemory, hi]
  | index hi v w h =>
    subst h
    obtain hi | hi | hi : i.tag = .ldI ∨ i.tag = .addIVx ∨ i.tag = .ldVxMem := by simpa using hi
    all_goals simp [sameMemory, hi]
  | store hi bytes w fits hw h =>
    subst h
    obtain hi | hi : i.tag = .ldBVx ∨ i.tag = .ldMemVx := by simpa using hi
    all_goals simp [sameMemory, hi, hw]
  | screen hi v fb h =>
    subst h
    obtain hi | hi : i.tag = .cls ∨ i.tag = .drw := by simpa using hi
    all_goals simp [sameMemory, hi]
  | delayTimer hi b h => subst h; simp [sameMemory, hi]
  | soundTimer hi b h => subst h; simp [sameMemory, hi]

/-! ### The same machine with the other variant -/

/-- VARIANT replaced, all else as it was. -/
def State.withVariant (s : State) (w : Variant) : State := { s with variant := w }

@[simp] theorem withVariant_pc (s : State) (w : Variant) : (s.withVariant w).pc = s.pc := rfl
@[simp] theorem withVariant_i (s : State) (w : Variant) : (s.withVariant w).i = s.i := rfl
@[simp] theorem getV_withVariant (s : State) (w : Variant) (x : Nibble) : (s.withVariant w).getV x = s.getV x := rfl
@[simp] theorem firstKey_withVariant (s : State) (w : Variant) : (s.withVariant w).firstKey = s.firstKey := rfl
@[simp] theorem memRead_withVariant (s : State) (w : Variant) (a : Word) (n : Nat) :
    (s.withVariant w).memRead a n = s.memRead a n := rfl

theorem skipIf_withVariant (s : State) (w : Variant) (c : Bool) :
    (s.withVariant w).skipIf c = (s.skipIf c).withVariant w := by
  cases c <;> rfl

theorem push_withVariant (s : State) (w : Variant) (b : Word) :
    (s.withVariant w).push b = (s.push b).map (·.withVariant w) := by
  by_cases h : s.sp.val < 16 <;> simp [State.push, State.withVariant, h]

theorem pop_withVariant (s : State) (w : Variant) :
    (s.withVariant w).pop = s.pop.map fun p => (p.1, p.2.withVariant w) := by
  by_cases h : 0 < s.sp.val <;> simp [State.pop, State.withVariant, h]

theorem memWrite_withVariant (s : State) (w : Variant) (a : Word) (bytes : List Byte) :
    (s.withVariant w).memWrite a bytes = (s.memWrite a bytes).map (·.withVariant w) := by
  unfold State.memWrite
  split <;> rfl

/-- VARIANT replaced in the next state of an outcome. -/
def outcomeWithVariant (w : Variant) : Host.Outcome State Fault Refusal → Host.Outcome State Fault Refusal
  | .next t => .next (t.withVariant w)
  | .fault r => .fault r
  | .refused r => .refused r

theorem keySkip_withVariant (i : Instr) (x : Nibble) (c : Nibble → Bool) (s : State) (w : Variant) :
    keySkip i x c (s.withVariant w) = outcomeWithVariant w (keySkip i x c s) := by
  rw [keySkip, keySkip, getV_withVariant]
  cases keyIndex (s.getV x) with
  | some k => exact congrArg _ (skipIf_withVariant s w _)
  | none => rfl

/-- Only the quirks of R23 read VARIANT. -/
theorem exec_withVariant {i : Instr} (hi : i.tag ∉ [Tag.or, .and, .xor, .shr, .shl, .ldMemVx, .ldVxMem]) (s : State)
    (w : Variant) : exec i (s.withVariant w) = outcomeWithVariant w (exec i s) := by
  cases i with
  | or | and | xor | shr | shl | ldMemVx | ldVxMem => simp [Instr.tag] at hi
  | sys | cls | jp | ldImm | addImm | ldReg | addReg | sub | subn | ldI | jpV0 | rnd | ldVxDt | ldDtVx | ldStVx
  | addIVx | ldFVx => rfl
  | seImm | sneImm | seReg | sneReg => exact congrArg _ (skipIf_withVariant s w _)
  | ret ign =>
    rw [exec, exec, execRet, execRet, pop_withVariant]
    cases s.pop <;> rfl
  | call nnn =>
    rw [exec, exec, execCall, execCall, withVariant_pc, push_withVariant]
    cases s.push s.pc <;> rfl
  | drw x y n =>
    rw [exec, exec, execDrw, execDrw, withVariant_i, memRead_withVariant]
    cases s.memRead s.i n.toNat <;> rfl
  | skp x => exact keySkip_withVariant _ x s.keyDown s w
  | sknp x => exact keySkip_withVariant _ x (fun k => !s.keyDown k) s w
  | ldVxK x =>
    rw [exec, exec, execLdVxK, execLdVxK, firstKey_withVariant]
    cases s.firstKey <;> rfl
  | ldBVx x =>
    rw [exec, exec, execLdBVx, execLdBVx, withVariant_i, getV_withVariant, memWrite_withVariant]
    cases s.memWrite s.i [(bcd (s.getV x)).1, (bcd (s.getV x)).2.1, (bcd (s.getV x)).2.2] <;> rfl

/-- Settles O28: an instruction that is no quirk commutes with a change of VARIANT. -/
theorem variantMattersOnlyForQuirks : Obligations.VariantMattersOnlyForQuirks := by
  intro i s t w hi h
  calc exec i (s.withVariant w)
    _ = outcomeWithVariant w (exec i s) := exec_withVariant hi s w
    _ = .next (t.withVariant w) := by rw [h, outcomeWithVariant]

end Sys2Proof.Machine
end

section
/-! PROOFS. Reset and its invariants (spec/70 R210, R211), the keypad latch (60 R199), and what the host reads (10 R30). -/

namespace Sys2Proof.Machine

/-! ### Reset -/

/-- The part of a ROM that reset copies ends inside memory (70 R211). -/
theorem romFits (rom : List Byte) :
    Config.programStart + (rom.take Config.romCapacity).length ≤ Config.memSize := by
  simp [Config.programStart, Config.romCapacity, Config.memSize]
  omega

/-- What memory holds after reset. -/
theorem read_load (rom : List Byte) (var : Variant) (a : Nat) :
    (State.load rom var).mem.read a =
      if 0x200 ≤ a ∧ a - 0x200 < min rom.length 3584 then rom.getD (a - 0x200) 0#8 else 0#8 := by
  rw [State.load, read_writeBytes [] rfl _ _ (romFits rom)]
  by_cases h : 0x200 ≤ a ∧ a - 0x200 < min rom.length 3584
  · rw [if_pos h, if_pos (by simp [Config.programStart, Config.romCapacity]; omega)]
    rw [List.getD_eq_getElem?_getD, List.getD_eq_getElem?_getD,
      List.getElem?_take_of_lt (lt_min_iff.1 h.2).2]
  · rw [if_neg h, if_neg (by simp [Config.programStart, Config.romCapacity]; omega), Memory.read]

/-- Settles O7: memory by `read_load`, every other field by the value that reset gives it. -/
theorem loadGivesResetState : Obligations.LoadGivesResetState := by
  intro rom var
  refine ⟨fun x => ?_, rfl, rfl, rfl, fun k => ?_, fun a _ => read_load rom var a, fun x y _ _ => ?_,
    rfl, rfl, rfl, rfl, rfl, rfl, rfl, rfl⟩
  · simp [State.getV, State.load, State.reset]
  · simp [State.load, State.reset]
  · exact pixel_clear x y

/-- Settles O9: only memory depends on the ROM, and a copy that fits keeps its canonical form. -/
theorem loadMeetsInvariants : Obligations.LoadMeetsInvariants := fun rom _ =>
  { memory := wf_writeBytes [] rfl _ _ (romFits rom)
    pcBound := show (0x0200#16).toNat ≤ 0x10FE by decide
    returnAddresses := fun k hk => absurd hk (Nat.not_lt_zero k)
    faultKind := iff_of_true rfl rfl
    faultRecord := fun _ => ⟨rfl, rfl⟩ }

/-- Settles O10: State.reset is the reset of no ROM bytes. -/
theorem resetMeetsInvariants : Obligations.ResetMeetsInvariants := loadMeetsInvariants [] .chip8

/-! ### The keypad latch -/

/-- A write to one key of the latch, key by key. -/
theorem getLsbD_setKeyBit (keys : Word) (k j : Nibble) (p : Bool) :
    (setKeyBit keys k p).getLsbD j.toNat = if j = k then p else keys.getLsbD j.toNat := by
  have hj : j.toNat < 16 := j.isLt
  by_cases h : j = k
  · subst h
    cases p <;> simp [setKeyBit, hj]
  · have hne : j.toNat ≠ k.toNat := fun e => h (BitVec.eq_of_toNat_eq e)
    cases p <;> simp [setKeyBit, h, hj, hne]

/-- After calls that give each key of `ks` its bit of `w`, those keys read as in `w` and the others as before. -/
theorem getLsbD_foldl_setKeyBit (w keys : Word) (ks : List Nibble) (j : Nibble) :
    ((ks.map fun k => (k, w.getLsbD k.toNat)).foldl (fun u call => setKeyBit u call.1 call.2) keys).getLsbD j.toNat =
      if j ∈ ks then w.getLsbD j.toNat else keys.getLsbD j.toNat := by
  induction ks generalizing keys with
  | nil => simp
  | cons k rest ih =>
    rw [List.map_cons, List.foldl_cons, ih, getLsbD_setKeyBit]
    by_cases hr : j ∈ rest
    · simp [hr]
    · by_cases hk : j = k <;> simp [hr, hk]

/-- A sequence of set_key calls is the same writes on the latch, and nothing else. -/
theorem foldl_setKey (s : State) (calls : List (Nibble × Bool)) :
    calls.foldl (fun u call => u.setKey call.1 call.2) s =
      { s with keys := calls.foldl (fun u call => setKeyBit u call.1 call.2) s.keys } := by
  induction calls generalizing s with
  | nil => rfl
  | cons call rest ih => exact ih _

/-- One call for each of the sixteen keys, with the key's bit of `w`. -/
def keyCalls (w : Word) : List (Nibble × Bool) :=
  ((List.finRange 16).map BitVec.ofFin).map fun k => (k, w.getLsbD k.toNat)

theorem foldl_keyCalls (w keys : Word) :
    (keyCalls w).foldl (fun u call => setKeyBit u call.1 call.2) keys = w := by
  apply BitVec.eq_of_getLsbD_eq
  intro n hn
  have h := getLsbD_foldl_setKeyBit w keys ((List.finRange 16).map BitVec.ofFin) (BitVec.ofFin ⟨n, hn⟩)
  rwa [if_pos (by simp)] at h

/-- Settles O21: the latch changes at its key only, and one call per key brings it to any value. -/
theorem setKeyWritesOneKey : Obligations.SetKeyWritesOneKey :=
  ⟨fun s k j p => ⟨getLsbD_setKeyBit s.keys k j p, rfl⟩,
    fun s w => ⟨keyCalls w, by rw [foldl_setKey, foldl_keyCalls]⟩⟩

/-! ### Faulted cores and the fault record -/

theorem cycle_of_faulted {s : State} (h : s.status = .faulted) : s.cycle = .next s := by
  rw [State.cycle, h]

/-- Settles O14: the host's inputs leave a faulted core faulted, and its cycle answers what they gave. -/
theorem faultedCoreChangesNothing : Obligations.FaultedCoreChangesNothing := fun s h =>
  ⟨cycle_of_faulted h, s.hostInputs, cycle_of_faulted (s := s.hostInputs) h, rfl⟩

/-- Settles O19: the read surface after a fault entry, field by field. -/
theorem hostReadsFaultRecord : Obligations.HostReadsFaultRecord := fun _ _ _ => ⟨rfl, fun _ => rfl⟩

end Sys2Proof.Machine
end

section
/-! PROOFS. The checked accesses to memory and the fetch (spec/20 R43 to R45): the exact condition under which each
faults, and what it gives or writes when it does not. -/

namespace Sys2Proof.Machine

/-! ### Each access on either side of its bound -/

theorem memRead_of_gt (s : State) {addr : Word} {n : Nat} (h0 : 0 < n) (h : 4095 < addr.toNat + n - 1) :
    s.memRead addr n = none := by
  rcases memRead_cases s addr n with ⟨hr, -⟩ | ⟨-, fits⟩
  · exact hr
  · omega

theorem memRead_of_fits (s : State) {addr : Word} {n : Nat} (h : n = 0 ∨ addr.toNat + n - 1 ≤ 4095) :
    s.memRead addr n = some (s.mem.readBytes addr.toNat n) := by
  rcases memRead_cases s addr n with ⟨-, h0, out⟩ | ⟨hr, -⟩
  · omega
  · exact hr

theorem memWrite_of_gt (s : State) {addr : Word} {bytes : List Byte} (h0 : 0 < bytes.length)
    (h : 4095 < addr.toNat + bytes.length - 1) : s.memWrite addr bytes = none := by
  rcases memWrite_cases s addr bytes with ⟨hw, -⟩ | ⟨-, fits⟩
  · exact hw
  · omega

theorem memWrite_of_fits (s : State) {addr : Word} {bytes : List Byte}
    (h : bytes.length = 0 ∨ addr.toNat + bytes.length - 1 ≤ 4095) :
    s.memWrite addr bytes = some { s with mem := s.mem.writeBytes addr.toNat bytes } := by
  rcases memWrite_cases s addr bytes with ⟨-, h0, out⟩ | ⟨hw, -⟩
  · omega
  · exact hw

/-- A write that answers a state stored its bytes, and they fit. -/
theorem memWrite_eq_some {s t : State} {addr : Word} {bytes : List Byte} (h : s.memWrite addr bytes = some t) :
    t = { s with mem := s.mem.writeBytes addr.toNat bytes } ∧
      (bytes.length = 0 ∨ addr.toNat + bytes.length - 1 ≤ 4095) := by
  rcases memWrite_cases s addr bytes with ⟨hw, -⟩ | ⟨hw, fits⟩
  · simp [hw] at h
  · exact ⟨Option.some.inj (h.symm.trans hw), fits⟩

theorem fetch_of_gt {s : State} (h : 4094 < s.pc.toNat) : s.fetch = none := by
  rcases fetch_cases s with ⟨hf, -⟩ | ⟨-, hpc⟩
  · exact hf
  · omega

theorem fetch_of_le {s : State} (h : s.pc.toNat ≤ 4094) :
    s.fetch = some (s.mem.read s.pc.toNat ++ s.mem.read (s.pc.toNat + 1)) := by
  rcases fetch_cases s with ⟨-, hpc⟩ | ⟨hf, -⟩
  · omega
  · exact hf

/-! ### The fetch -/

/-- Settles O23: on either side of the bound by the fetch's equation there; joining two bytes is big-endian. -/
theorem fetchBigEndian : Obligations.FetchBigEndian := by
  refine fun s => ⟨fetch_of_gt, fun h => ⟨_, fetch_of_le h, ?_⟩⟩
  rw [toNat_join]
  omega

theorem cycle_of_fetch_none {s : State} (hs : s.status = .running) (hf : s.fetch = none) :
    s.cycle = .next (s.tickTimers.faultEntry .memoryOutOfBounds 0#16 s.pc) := by
  rcases cycle_cases s with ⟨hst, -⟩ | ⟨-, -, hc⟩ | ⟨op, -, hop, -⟩ | ⟨op, i, -, hop, -⟩
  · simp [hs] at hst
  · exact hc
  · simp [hf] at hop
  · simp [hf] at hop

/-- Settles O15: above the bound the fetch fails, and that cycle is the tick and the fault entry. -/
theorem fetchFaultEntry : Obligations.FetchFaultEntry :=
  fun _ hs hpc => ⟨_, cycle_of_fetch_none hs (fetch_of_gt hpc), rfl⟩

/-! ### MemRead and MemWrite -/

/-- Settles O24: MemRead on either side of its bound, and byte by byte what a block read gives. -/
theorem memReadChecksWholeRange : Obligations.MemReadChecksWholeRange := by
  intro s addr n _
  refine ⟨?_, memRead_of_gt s, fun _ fits => ?_⟩
  · rintro rfl
    exact memRead_of_fits s (.inl rfl)
  · exact ⟨_, memRead_of_fits s (.inr fits), length_readBytes .., getD_readBytes s.mem addr.toNat n⟩

/-- Settles O25: MemWrite on either side of its bound; a block that fits keeps the canonical form and reads back. -/
theorem memWriteAllOrNothing : Obligations.MemWriteAllOrNothing := by
  intro s addr bytes hm h1 _
  refine ⟨memWrite_of_gt s h1, fun fits => ?_⟩
  have inside : addr.toNat + bytes.length ≤ Config.memSize := by
    rw [Config.memSize]
    omega
  exact ⟨_, memWrite_of_fits s (.inr fits), rfl, wf_writeBytes s.mem hm _ _ inside,
    read_writeBytes s.mem hm _ _ inside⟩

/-- Settles O26: the write leaves PC alone, so the fetch reads the two bytes just stored. -/
theorem storeSeenByNextFetch : Obligations.StoreSeenByNextFetch := by
  intro s t hi lo hm h
  obtain ⟨ht, fits⟩ := memWrite_eq_some h
  have hpc : t.pc = s.pc := by rw [ht]
  have hmem : t.mem = s.mem.writeBytes s.pc.toNat [hi, lo] := by rw [ht]
  have hle : s.pc.toNat ≤ 4094 := by
    simp only [List.length_cons, List.length_nil] at fits
    omega
  have stored := read_writeBytes s.mem hm s.pc.toNat [hi, lo] (by simp [Config.memSize]; omega)
  rw [fetch_of_le (hpc ▸ hle), hpc, hmem, stored, stored]
  simp

end Sys2Proof.Machine
end

section
/-! PROOFS. The decoder against the encoder and the opcode map (spec/30 R63 to R76): dispatch finds exactly the row an
opcode matches, and an opcode is rebuilt from its row's match and its operand fields. -/

namespace Sys2Proof

open Laws.MatchesRow (mask_f000_fnnn mask_f00f_fxyn mask_f0ff_fxnn)

/-! ### Dispatch and operands apart -/

/-- The instruction that row `t` makes of an opcode, its operands read from the opcode's fields (R63, R72). -/
def Tag.instrOf (t : Tag) (op : Word) : Instr := { decodeRecord op with op := t }.instr

/-- Decoding is dispatch to a row, then that row's operands. -/
theorem decode_eq_map (op : Word) : decode op = (decodeTag op).map (·.instrOf op) := by
  unfold decode Tag.instrOf decodeRecord
  cases decodeTag op <;> rfl

/-! ### Every encoded instruction is dispatched to its own row -/

/-- Dispatch looks at the family and, in families 0x0, 0x8, 0xE and 0xF, at the sub-code: in the encoding of `i` both
are those of its row. -/
theorem decodeTag_encode (i : Instr) : decodeTag (encode i) = some i.tag := by
  cases i
  case sys | cls | ret => simp [encode, decodeTag, decodeFamily0, Instr.tag]
  case ldReg | or | and | xor | addReg | sub | shr | subn | shl =>
    simp [encode, decodeTag, decodeFamily8, Instr.tag]
  case skp | sknp => simp [encode, decodeTag, decodeFamilyE, Instr.tag]
  case ldVxDt | ldVxK | ldDtVx | ldStVx | addIVx | ldFVx | ldBVx | ldMemVx | ldVxMem =>
    simp [encode, decodeTag, decodeFamilyF, Instr.tag]
  all_goals simp [encode, decodeTag, Instr.tag]

/-- The operand fields of an encoded instruction are its operands, by the laws of its layout. -/
theorem instrOf_tag_encode (i : Instr) : i.tag.instrOf (encode i) = i := by
  cases i <;> simp [Tag.instrOf, decodeRecord, Decoded.instr, Instr.tag, encode]

/-- Settles O1: the encoding of `i` is dispatched to the row of `i`, and that row reads back the operands of `i`. -/
theorem decodeOfEncode : Obligations.DecodeOfEncode := by
  intro i
  rw [decode_eq_map, decodeTag_encode, Option.map_some, instrOf_tag_encode]

/-! ### Dispatch gives a row that the opcode matches -/

theorem and_f000_of_field {op : Word} {f : Nibble} (hf : fieldF op = f) : op &&& 0xF000 = f ++ 0x000#12 := by
  rw [← hf, ← mask_f000_fnnn (fieldF op) (fieldNNN op), ← opcode_eq_fnnn]

theorem and_f00f_of_fields {op : Word} {f n : Nibble} (hf : fieldF op = f) (hn : fieldN op = n) :
    op &&& 0xF00F = f ++ 0x0#4 ++ 0x0#4 ++ n := by
  rw [← hf, ← hn, ← mask_f00f_fxyn (fieldF op) (fieldX op) (fieldY op) (fieldN op), ← opcode_eq_fxyn]

theorem and_f0ff_of_fields {op : Word} {f : Nibble} {nn : Byte} (hf : fieldF op = f) (hnn : fieldNN op = nn) :
    op &&& 0xF0FF = f ++ 0x0#4 ++ nn := by
  rw [← hf, ← hnn, ← mask_f0ff_fxnn (fieldF op) (fieldX op) (fieldNN op), ← opcode_eq_fxnn]

/-! The row that a sub-code selects compares the family and that sub-code (R67 to R70). -/

theorem row_of_decodeFamily0 {nn : Byte} {t : Tag} (h : decodeFamily0 nn = some t) :
    t.mask = 0xF0FF ∧ t.pattern = 0x0#4 ++ 0x0#4 ++ nn := by
  unfold decodeFamily0 at h
  split at h <;> cases h <;> exact ⟨rfl, rfl⟩

theorem row_of_decodeFamily8 {n : Nibble} {t : Tag} (h : decodeFamily8 n = some t) :
    t.mask = 0xF00F ∧ t.pattern = 0x8#4 ++ 0x0#4 ++ 0x0#4 ++ n := by
  unfold decodeFamily8 at h
  split at h <;> cases h <;> exact ⟨rfl, rfl⟩

theorem row_of_decodeFamilyE {nn : Byte} {t : Tag} (h : decodeFamilyE nn = some t) :
    t.mask = 0xF0FF ∧ t.pattern = 0xE#4 ++ 0x0#4 ++ nn := by
  unfold decodeFamilyE at h
  split at h <;> cases h <;> exact ⟨rfl, rfl⟩

theorem row_of_decodeFamilyF {nn : Byte} {t : Tag} (h : decodeFamilyF nn = some t) :
    t.mask = 0xF0FF ∧ t.pattern = 0xF#4 ++ 0x0#4 ++ nn := by
  unfold decodeFamilyF at h
  split at h <;> cases h <;> exact ⟨rfl, rfl⟩

/-- What dispatch can do (R66): consult the sub-code in four families, and in the other twelve answer the one row that
compares the family only (R71). -/
theorem decodeTag_cases (op : Word) :
    (fieldF op = 0x0#4 ∧ decodeTag op = decodeFamily0 (fieldNN op)) ∨
    (fieldF op = 0x8#4 ∧ decodeTag op = decodeFamily8 (fieldN op)) ∨
    (fieldF op = 0xE#4 ∧ decodeTag op = decodeFamilyE (fieldNN op)) ∨
    (fieldF op = 0xF#4 ∧ decodeTag op = decodeFamilyF (fieldNN op)) ∨
    (fieldF op ∉ [0x0#4, 0x8#4, 0xE#4, 0xF#4] ∧
      ∃ t, decodeTag op = some t ∧ t.mask = 0xF000 ∧ t.pattern = fieldF op ++ 0x000#12) := by
  unfold decodeTag
  split
  case h_1 hf => exact .inl ⟨hf, rfl⟩
  case h_9 hf => exact .inr (.inl ⟨hf, rfl⟩)
  case h_15 hf => exact .inr (.inr (.inl ⟨hf, rfl⟩))
  case h_16 =>
    refine .inr (.inr (.inr (.inl ⟨?_, rfl⟩)))
    generalize fieldF op = f at *
    decide +revert
  all_goals
    rename_i hf
    rw [hf]
    exact .inr (.inr (.inr (.inr ⟨by decide, _, rfl, rfl, rfl⟩)))

/-- Dispatch is sound: the row it answers is one that the opcode matches. -/
theorem match_of_decodeTag {op : Word} {t : Tag} (h : decodeTag op = some t) : op &&& t.mask = t.pattern := by
  rcases decodeTag_cases op with ⟨hf, hd⟩ | ⟨hf, hd⟩ | ⟨hf, hd⟩ | ⟨hf, hd⟩ | ⟨-, u, hd, hm, hp⟩
  · obtain ⟨hm, hp⟩ := row_of_decodeFamily0 (hd ▸ h)
    rw [hm, hp, and_f0ff_of_fields hf rfl]
  · obtain ⟨hm, hp⟩ := row_of_decodeFamily8 (hd ▸ h)
    rw [hm, hp, and_f00f_of_fields hf rfl]
  · obtain ⟨hm, hp⟩ := row_of_decodeFamilyE (hd ▸ h)
    rw [hm, hp, and_f0ff_of_fields hf rfl]
  · obtain ⟨hm, hp⟩ := row_of_decodeFamilyF (hd ▸ h)
    rw [hm, hp, and_f0ff_of_fields hf rfl]
  · obtain rfl : u = t := Option.some.inj (hd.symm.trans h)
    rw [hm, hp, and_f000_of_field rfl]

/-! ### An opcode that matches a row is the encoding of that row's instruction -/

/-! What a match leaves open of an opcode are the operand fields of its layout (R61). -/

theorem fnnn_of_match {op p : Word} (h : op &&& 0xF000 = p) : fieldF p ++ fieldNNN op = op := by
  rw [← h, and_f000_of_field rfl, fieldF_fnnn, ← opcode_eq_fnnn]

theorem fxnn_of_match {op p : Word} (h : op &&& 0xF000 = p) : fieldF p ++ fieldX op ++ fieldNN op = op := by
  rw [← h, and_f000_of_field rfl, fieldF_fnnn, ← opcode_eq_fxnn]

theorem fxyn_of_match {op p : Word} (h : op &&& 0xF000 = p) :
    fieldF p ++ fieldX op ++ fieldY op ++ fieldN op = op := by
  rw [← h, and_f000_of_field rfl, fieldF_fnnn, ← opcode_eq_fxyn]

theorem fxyn_of_match_subcode {op p : Word} (h : op &&& 0xF00F = p) :
    fieldF p ++ fieldX op ++ fieldY op ++ fieldN p = op := by
  rw [← h, and_f00f_of_fields rfl rfl, fieldF_fxyn, fieldN_fxyn, ← opcode_eq_fxyn]

theorem fxnn_of_match_subcode {op p : Word} (h : op &&& 0xF0FF = p) :
    fieldF p ++ fieldX op ++ fieldNN p = op := by
  rw [← h, and_f0ff_of_fields rfl rfl, fieldF_fxnn, fieldNN_fxnn, ← opcode_eq_fxnn]

theorem encode_instrOf {op : Word} {t : Tag} (h : op &&& t.mask = t.pattern) : encode (t.instrOf op) = op := by
  cases t
  case jp | call | ldI | jpV0 => exact (fnnn_of_match h :)
  case seImm | sneImm | ldImm | addImm | rnd => exact (fxnn_of_match h :)
  case seReg | sneReg | drw => exact (fxyn_of_match h :)
  case ldReg | or | and | xor | addReg | sub | shr | subn | shl => exact (fxyn_of_match_subcode h :)
  all_goals exact (fxnn_of_match_subcode h :)

theorem tag_instrOf (t : Tag) (op : Word) : (t.instrOf op).tag = t := by
  cases t <;> rfl

/-- Dispatch is exact (R76): it answers a row if and only if the opcode matches that row. -/
theorem decodeTag_eq_some_iff (op : Word) (t : Tag) : decodeTag op = some t ↔ op &&& t.mask = t.pattern := by
  refine ⟨match_of_decodeTag, fun h => ?_⟩
  have hd := decodeTag_encode (t.instrOf op)
  rwa [encode_instrOf h, tag_instrOf] at hd

/-- Settles O2: the opcode matches the row it is dispatched to, so that row's instruction encodes to it. -/
theorem encodeOfDecode : Obligations.EncodeOfDecode := by
  intro op i h
  rw [decode_eq_map, Option.map_eq_some_iff] at h
  obtain ⟨t, ht, rfl⟩ := h
  exact encode_instrOf (match_of_decodeTag ht)

/-! ### The record of the decoder -/

/-- The record is valid with tag `t` exactly when dispatch answers `t`. -/
theorem valid_and_op_iff (op : Word) (t : Tag) :
    ((decodeRecord op).valid = true ∧ (decodeRecord op).op = t) ↔ decodeTag op = some t := by
  unfold decodeRecord
  cases decodeTag op <;> simp

/-- Settles O3: each row by exact dispatch; two rows that match are both the one answer of dispatch. -/
theorem opcodeMapExact : Obligations.OpcodeMapExact := by
  refine ⟨fun op t => (valid_and_op_iff op t).trans (decodeTag_eq_some_iff op t), fun op t u ht hu => ?_⟩
  rw [← decodeTag_eq_some_iff] at ht hu
  exact Option.some.inj (ht.symm.trans hu)

theorem valid_iff_match (op : Word) : (decodeRecord op).valid = true ↔ ∃ t : Tag, op &&& t.mask = t.pattern := by
  simp only [← decodeTag_eq_some_iff]
  exact Option.isSome_iff_exists

/-- An opcode without a row leaves tag 0 in the record. -/
theorem valid_or_op_sys (op : Word) : (decodeRecord op).valid = true ∨ (decodeRecord op).op = .sys := by
  unfold decodeRecord
  cases decodeTag op <;> simp

theorem code_of_not_valid {op : Word} (h : (decodeRecord op).valid = false) : (decodeRecord op).op.code = 0#6 := by
  rw [(valid_or_op_sys op).resolve_left (by simp [h])]
  rfl

theorem wf_decodeRecord (op : Word) : (decodeRecord op).wf = true := by
  simpa [Decoded.wf, decodeRecord, fieldX, fieldY, fieldN, fieldNN, fieldNNN] using valid_or_op_sys op

/-- Settles O5: validity and tag by exact dispatch, the operand fields as arithmetic. -/
theorem decodedRecordFields : Obligations.DecodedRecordFields := fun op =>
  ⟨valid_iff_match op, fun hv => (opcodeMapExact.1 op _).1 ⟨hv, rfl⟩, code_of_not_valid,
    toNat_fieldX op, toNat_fieldY op, toNat_fieldN op, toNat_fieldNN op, toNat_fieldNNN op, rfl, wf_decodeRecord op⟩

/-! ### The unknown opcodes -/

/-! The sub-codes that each of the four families leaves without a row (R67 to R70). -/

theorem decodeFamily0_eq_none_iff (nn : Byte) : decodeFamily0 nn = none ↔ nn.toNat ∉ [0x00, 0xE0, 0xEE] := by
  unfold decodeFamily0
  split <;> simp_all [BitVec.toNat_eq]

theorem decodeFamily8_eq_none_iff (n : Nibble) :
    decodeFamily8 n = none ↔ n.toNat ∈ [0x8, 0x9, 0xA, 0xB, 0xC, 0xD, 0xF] := by
  revert n
  decide

theorem decodeFamilyE_eq_none_iff (nn : Byte) : decodeFamilyE nn = none ↔ nn.toNat ∉ [0x9E, 0xA1] := by
  unfold decodeFamilyE
  split <;> simp_all [BitVec.toNat_eq]

theorem decodeFamilyF_eq_none_iff (nn : Byte) : decodeFamilyF nn = none ↔
    nn.toNat ∉ [0x07, 0x0A, 0x15, 0x18, 0x1E, 0x29, 0x33, 0x55, 0x65] := by
  unfold decodeFamilyF
  split <;> simp_all [BitVec.toNat_eq]

/-- Settles O4: in the four families with sub-codes by those that have no row; the other twelve always have one. -/
theorem unknownOpcodesExact : Obligations.UnknownOpcodesExact := by
  intro op
  simp only [decode_eq_none, ← toNat_fieldF, ← toNat_fieldNN, ← toNat_fieldN, ← decodeFamily0_eq_none_iff,
    ← decodeFamily8_eq_none_iff, ← decodeFamilyE_eq_none_iff, ← decodeFamilyF_eq_none_iff]
  rcases decodeTag_cases op with ⟨hf, hd⟩ | ⟨hf, hd⟩ | ⟨hf, hd⟩ | ⟨hf, hd⟩ | ⟨hf, t, hd, -⟩
  · simp [hf, hd]
  · simp [hf, hd]
  · simp [hf, hd]
  · simp [hf, hd]
  · simp only [List.mem_cons, List.not_mem_nil, or_false, not_or, BitVec.toNat_eq, BitVec.toNat_ofNat] at hf
    simp [hd, hf]

/-- Settles O6: each known word is the encoding of its instruction; dispatch of the four others finds no row. -/
theorem specWordsDecode : Obligations.SpecWordsDecode :=
  ⟨decodeOfEncode (.sys 0x3#4), decodeOfEncode (.cls 0x1#4), decodeOfEncode (.ret 0xF#4), decodeOfEncode (.jp 0xABC#12),
    decodeOfEncode (.call 0xFFF#12), decodeOfEncode (.seImm 0xA#4 0x42#8), decodeOfEncode (.sneImm 0xA#4 0x42#8),
    decodeOfEncode (.seReg 0xA#4 0xB#4 0x7#4), decodeOfEncode (.ldImm 0x0#4 0x05#8),
    decodeOfEncode (.addImm 0x0#4 0x03#8), decodeOfEncode (.shl 0xA#4 0xB#4),
    decodeOfEncode (.sneReg 0xA#4 0xB#4 0xF#4), decodeOfEncode (.ldI 0x050#12), decodeOfEncode (.jpV0 0x123#12),
    decodeOfEncode (.rnd 0x3#4 0xF0#8), decodeOfEncode (.drw 0x0#4 0x0#4 0x5#4), decodeOfEncode (.sknp 0x1#4),
    decodeOfEncode (.ldMemVx 0x3#4), by decide, by decide, by decide, by decide⟩

end Sys2Proof
end

section
/-! PROOFS. The cycle and the control-flow instructions (spec/40 R90 to R106): a cycle as the instruction it fetches, the
call stack on either side of its bounds, the branches, and the terminal state. -/

namespace Sys2Proof.Machine

/-! ### The cycle -/

theorem cycle_answers_next (s : State) : ∃ t, s.cycle = .next t := by
  rcases cycle_cases s with ⟨-, hc⟩ | ⟨-, -, hc⟩ | ⟨op, -, -, -, hc⟩ | ⟨op, i, -, -, -, hc⟩
  · exact ⟨_, hc⟩
  · exact ⟨_, hc⟩
  · exact ⟨_, hc⟩
  · obtain ⟨t, ht, -⟩ := exec_effect i s.tickTimers.advancePc
    exact ⟨t, hc.trans ht⟩

/-- Settles O12: every arm of exec has its effect, and a step is a cycle. -/
theorem everyStepAnswersNext : Obligations.EveryStepAnswersNext :=
  ⟨fun i s => (exec_effect i s).imp fun _ h => h.1, fun s => cycle_answers_next s.hostInputs⟩

/-- A running core that fetches an opcode of instruction `i` executes `i` after the tick and the advance of PC (R90). -/
theorem cycle_of_fetch {s : State} {op : Word} {i : Instr} (hs : s.status = .running) (hf : s.fetch = some op)
    (hd : decode op = some i) : s.cycle = exec i s.tickTimers.advancePc := by
  simp [State.cycle, State.decodeExecute, hs, hf, hd]

/-- Settles O13: the fetch and STATUS do not see the host's part of the step. -/
theorem stepRunsDecodedInstruction : Obligations.StepRunsDecodedInstruction := fun s _ hs hpc hd =>
  ⟨cycle_of_fetch (s := s.hostInputs) hs (fetch_of_le (s := s.hostInputs) hpc) hd, rfl, rfl⟩

/-! ### The call stack on either side of its bounds -/

theorem push_of_lt {s : State} (h : s.sp.val < 16) (w : Word) :
    s.push w = some { s with stack := s.stack.set s.sp.val w, sp := ⟨s.sp.val + 1, by omega⟩ } := by
  rcases push_cases s w with ⟨_, hp⟩ | ⟨-, full⟩
  · exact hp
  · omega

theorem push_of_full {s : State} (h : s.sp.val = 16) (w : Word) : s.push w = none := by
  rcases push_cases s w with ⟨hlt, -⟩ | ⟨hp, -⟩
  · omega
  · exact hp

/-- A pop from depth k + 1 answers entry k and goes to depth k. -/
theorem pop_of_succ {s : State} {k : Fin 16} (h : s.sp.val = k.val + 1) :
    s.pop = some (s.stack[k], { s with sp := k.castSucc }) := by
  rcases pop_cases s with ⟨_, hp⟩ | ⟨-, empty⟩
  · simpa [h, Fin.castSucc, Fin.castAdd, Fin.castLE] using hp
  · omega

theorem pop_of_empty {s : State} (h : s.sp.val = 0) : s.pop = none := by
  rcases pop_cases s with ⟨hpos, -⟩ | ⟨hp, -⟩
  · omega
  · exact hp

theorem getElem_set_entry (stack : Vector Word 16) {n : Nat} (hn : n < 16) (w : Word) (k : Fin 16) :
    (stack.set n w)[k] = if k.val = n then w else stack[k] := by
  simp [Vector.getElem_set, eq_comm]

/-- Settles O33: the four equations of Push and Pop; the entry that a push writes is the one that the pop after it reads. -/
theorem pushAndPop : Obligations.PushAndPop := by
  refine ⟨fun s w => ⟨fun h => push_of_full h w, fun h => ?_⟩,
    fun s => ⟨pop_of_empty, fun k hk => ⟨_, pop_of_succ hk, rfl, rfl⟩⟩⟩
  refine ⟨_, push_of_lt h w, rfl, rfl, getElem_set_entry s.stack h w, ?_⟩
  rw [pop_of_succ (k := ⟨s.sp.val, h⟩) rfl, getElem_set_entry s.stack h, if_pos rfl]
  rfl

/-! ### RET and CALL -/

/-- The fault entry of an executing instruction, where PC is past the fetch address `a` (R91, 60 R188). -/
theorem raise_eq_afterFault {s : State} {a : Word} (h : s.pc = a + 2#16) (k : FaultKind) (i : Instr) :
    s.raise k i = afterFault s k (encode i) a := by
  rw [State.raise, h, BitVec.add_sub_cancel]
  rfl

theorem exec_ret_of_succ {s : State} {k : Fin 16} (h : s.sp.val = k.val + 1) (ign : Nibble) :
    exec (.ret ign) s = .next { s with sp := k.castSucc, pc := s.stack[k] } := by
  rw [exec, execRet, pop_of_succ h]
  rfl

theorem exec_ret_of_empty {s : State} (h : s.sp.val = 0) (ign : Nibble) :
    exec (.ret ign) s = .next (s.raise .stackEmpty (.ret ign)) := by
  rw [exec, execRet, pop_of_empty h]

theorem exec_call_of_lt {s : State} (h : s.sp.val < 16) (nnn : Addr12) :
    exec (.call nnn) s = .next { s with
      stack := s.stack.set s.sp.val s.pc, sp := ⟨s.sp.val + 1, by omega⟩, pc := nnn.setWidth 16 } := by
  rw [exec, execCall, push_of_lt h]
  rfl

theorem exec_call_of_full {s : State} (h : s.sp.val = 16) (nnn : Addr12) :
    exec (.call nnn) s = .next (s.raise .stackFull (.call nnn)) := by
  rw [exec, execCall, push_of_full h]

/-- Settles O37: RET at depth k + 1, and on an empty stack. -/
theorem retPopsOrFaults : Obligations.RetPopsOrFaults := by
  refine fun s ign => ⟨decodeOfEncode (.ret ign), fun k hk => ?_, fun a hsp hpc => ?_⟩
  · exact ⟨_, exec_ret_of_succ hk ign, rfl, fun _ => rfl, rfl, rfl⟩
  · rw [exec_ret_of_empty hsp, raise_eq_afterFault hpc]
    rfl

/-- A 12-bit address keeps its value as a value of PC. -/
theorem toNat_jumpTarget (nnn : Addr12) : (nnn.setWidth 16).toNat = nnn.toNat :=
  BitVec.toNat_setWidth_of_le (by decide)

/-- Settles O39: CALL with a free entry, and on a full stack. -/
theorem callPushesOrFaults : Obligations.CallPushesOrFaults := by
  refine fun s nnn => ⟨decodeOfEncode (.call nnn), fun hsp => ?_, fun a hsp hpc => ?_⟩
  · exact ⟨_, exec_call_of_lt hsp nnn, rfl, fun _ => rfl, toNat_jumpTarget nnn, rfl,
      getElem_set_entry s.stack hsp s.pc⟩
  · rw [exec_call_of_full hsp, raise_eq_afterFault hpc]
    rfl

/-- The cycle of a CALL with a free entry: the entry at the depth gets the address after the CALL (R98). -/
theorem cycle_call_of_lt {s : State} {nnn : Addr12} (hf : s.fetch = some (0x2#4 ++ nnn)) (hs : s.status = .running)
    (h : s.sp.val < 16) :
    s.cycle = .next { s.tickTimers with
      stack := s.stack.set s.sp.val (s.pc + 2#16), sp := ⟨s.sp.val + 1, by omega⟩, pc := nnn.setWidth 16 } :=
  (cycle_of_fetch hs hf (decodeOfEncode (.call nnn))).trans (exec_call_of_lt (s := s.tickTimers.advancePc) h nnn)

/-- The cycle of a RET at depth k + 1 (R96). -/
theorem cycle_ret_of_succ {s : State} {ign : Nibble} (hf : s.fetch = some (0x0#4 ++ ign ++ 0xEE#8))
    (hs : s.status = .running) {k : Fin 16} (h : s.sp.val = k.val + 1) :
    s.cycle = .next { s.tickTimers with sp := k.castSucc, pc := s.stack[k] } :=
  (cycle_of_fetch hs hf (decodeOfEncode (.ret ign))).trans (exec_ret_of_succ (s := s.tickTimers.advancePc) h ign)

/-- Settles O30: the entry that the CALL writes is at the depth from which the RET pops, and RET clears nothing. -/
theorem callThenReturn : Obligations.CallThenReturn := by
  intro s t nnn ign hsp hs hf hc hft
  obtain rfl := Host.Outcome.next.inj (hc.symm.trans (cycle_call_of_lt hf hs hsp))
  have ret := cycle_ret_of_succ (k := ⟨s.sp.val, hsp⟩) hft hs rfl
  have top : (s.stack.set s.sp.val (s.pc + 2#16))[s.sp.val] = s.pc + 2#16 := Vector.getElem_set_self hsp
  exact ⟨toNat_jumpTarget nnn, _, ret, top, rfl, top⟩

/-! ### SYS, the jumps and the skips -/

/-- Settles O36: SYS is ignored. -/
theorem sysChangesNothing : Obligations.SysChangesNothing := fun _ ign => ⟨decodeOfEncode (.sys ign), rfl⟩

theorem changesOnlyPc_setPc (s : State) (w : Word) : changesOnlyPc s (s.setPc w) := ⟨rfl, fun _ => rfl⟩

/-- The sum of an address and a register is below 0x10FF, so it does not wrap. -/
theorem toNat_jumpV0Target (nnn : Addr12) (b : Byte) :
    (nnn.setWidth 16 + b.setWidth 16).toNat = nnn.toNat + b.toNat := by
  have := nnn.isLt
  have := b.isLt
  simp
  omega

/-- Settles O38: both jumps write PC alone. -/
theorem jumpsSetPc : Obligations.JumpsSetPc := fun s nnn =>
  ⟨decodeOfEncode (.jp nnn), decodeOfEncode (.jpV0 nnn),
    ⟨_, rfl, changesOnlyPc_setPc s _, toNat_jumpTarget nnn⟩,
    ⟨_, rfl, changesOnlyPc_setPc s _, toNat_jumpV0Target nnn (s.getV 0x0#4)⟩⟩

theorem changesOnlyPc_skipIf (s : State) (c : Bool) : changesOnlyPc s (s.skipIf c) := by
  rw [skipIf_eq]
  exact ⟨rfl, fun _ => rfl⟩

theorem toNat_pc_skipIf (s : State) (c : Bool) :
    (s.skipIf c).pc.toNat = if c then (s.pc.toNat + 2) % 65536 else s.pc.toNat := by
  rw [skipIf_eq]
  cases c <;> simp

/-- A skip on equal bytes (R99, R101). -/
theorem skipIf_beq (s : State) (a b : Byte) :
    changesOnlyPc s (s.skipIf (a == b)) ∧
      (s.skipIf (a == b)).pc.toNat = if a = b then (s.pc.toNat + 2) % 65536 else s.pc.toNat := by
  refine ⟨changesOnlyPc_skipIf s _, ?_⟩
  rw [toNat_pc_skipIf]
  simp

/-- A skip on different bytes (R100, R102). -/
theorem skipIf_bne (s : State) (a b : Byte) :
    changesOnlyPc s (s.skipIf (a != b)) ∧
      (s.skipIf (a != b)).pc.toNat = if a = b then s.pc.toNat else (s.pc.toNat + 2) % 65536 := by
  refine ⟨changesOnlyPc_skipIf s _, ?_⟩
  rw [toNat_pc_skipIf]
  simp

/-- Settles O40: the two comparisons of a register with NN. -/
theorem skipsOnImmediate : Obligations.SkipsOnImmediate := fun s x nn =>
  ⟨decodeOfEncode (.seImm x nn), decodeOfEncode (.sneImm x nn),
    ⟨_, rfl, skipIf_beq s (s.getV x) nn⟩, ⟨_, rfl, skipIf_bne s (s.getV x) nn⟩⟩

/-- Settles O41: the two comparisons of two registers. -/
theorem skipsOnRegisters : Obligations.SkipsOnRegisters := fun s x y ign =>
  ⟨decodeOfEncode (.seReg x y ign), decodeOfEncode (.sneReg x y ign),
    ⟨_, rfl, skipIf_beq s (s.getV x) (s.getV y)⟩, ⟨_, rfl, skipIf_bne s (s.getV x) (s.getV y)⟩⟩

/-! ### The terminal state -/

theorem terminal_iff (s : State) :
    terminal s = true ↔ s.status = .running ∧ s.pc.toNat ≤ 0xFFE ∧ s.fetch = some (0x1000#16 + s.pc) := by
  simp [terminal, and_assoc]

/-- An address inside memory is the target of a jump to it. -/
theorem jumpTarget_setWidth {pc : Word} (h : pc.toNat ≤ 0xFFE) : (pc.setWidth 12).setWidth 16 = pc := by
  apply BitVec.eq_of_toNat_eq
  simp
  omega

/-- The opcode that R106 names is the jump to that address. -/
theorem encode_jp_setWidth {pc : Word} (h : pc.toNat ≤ 0xFFE) :
    encode (.jp (pc.setWidth 12)) = 0x1000#16 + pc := by
  apply BitVec.eq_of_toNat_eq
  rw [encode, toNat_join]
  simp
  omega

/-- Settles O22: the jump brings PC back from the advance to where it was, and the tick is what remains. -/
theorem terminalStateIsParked : Obligations.TerminalStateIsParked := by
  intro s h
  obtain ⟨hs, hpc, hf⟩ := (terminal_iff s).1 h
  have decoded : decode (0x1000#16 + s.pc) = some (.jp (s.pc.setWidth 12)) :=
    encode_jp_setWidth hpc ▸ decodeOfEncode _
  calc s.cycle
    _ = .next (s.tickTimers.advancePc.setPc ((s.pc.setWidth 12).setWidth 16)) := cycle_of_fetch hs hf decoded
    _ = .next (s.tickTimers.setPc s.pc) := by
      rw [jumpTarget_setWidth hpc]
      rfl

end Sys2Proof.Machine
end

section
/-! PROOFS. What reads `rand_byte` (spec/40 R92, 60 R200). -/

namespace Sys2Proof.Machine

/-- The input `rand_byte` replaced, all else as it was. -/
def State.withRandByte (s : State) (r : Byte) : State := { s with randByte := r }

section
variable (s : State) (r : Byte)

/-! ### The parts of the state that an operation reads -/

@[simp] theorem withRandByte_pc : (s.withRandByte r).pc = s.pc := rfl
@[simp] theorem withRandByte_i : (s.withRandByte r).i = s.i := rfl
@[simp] theorem withRandByte_variant : (s.withRandByte r).variant = s.variant := rfl
@[simp] theorem getV_withRandByte (x : Nibble) : (s.withRandByte r).getV x = s.getV x := rfl
@[simp] theorem firstKey_withRandByte : (s.withRandByte r).firstKey = s.firstKey := rfl
@[simp] theorem memRead_withRandByte (a : Word) (n : Nat) : (s.withRandByte r).memRead a n = s.memRead a n := rfl

theorem regList_withRandByte (k n : Nat) : (s.withRandByte r).regList k n = s.regList k n := by
  induction n generalizing k with
  | zero => rfl
  | succ n ih => exact congrArg _ (ih (k + 1))

@[simp] theorem regBlock_withRandByte (x : Nibble) : (s.withRandByte r).regBlock x = s.regBlock x :=
  regList_withRandByte s r 0 _

/-! ### The operations commute with the change -/

theorem skipIf_withRandByte (c : Bool) : (s.withRandByte r).skipIf c = (s.skipIf c).withRandByte r := by
  cases c <;> rfl

theorem setLogicResult_withRandByte (x : Nibble) (b : Byte) :
    (s.withRandByte r).setLogicResult x b = (s.setLogicResult x b).withRandByte r := by
  rw [State.setLogicResult, State.setLogicResult, withRandByte_variant]
  cases s.variant <;> rfl

theorem postIncrement_withRandByte (x : Nibble) :
    (s.withRandByte r).postIncrement x = (s.postIncrement x).withRandByte r := by
  rw [State.postIncrement, State.postIncrement, withRandByte_variant]
  cases s.variant <;> rfl

theorem setRegs_withRandByte (k : Nat) (bytes : List Byte) :
    (s.withRandByte r).setRegs k bytes = (s.setRegs k bytes).withRandByte r := by
  induction bytes generalizing s k with
  | nil => rfl
  | cons b rest ih => exact ih (s.setV _ b) (k + 1)

theorem push_withRandByte (w : Word) : (s.withRandByte r).push w = (s.push w).map (·.withRandByte r) := by
  by_cases h : s.sp.val < 16 <;> simp [State.push, State.withRandByte, h]

theorem pop_withRandByte : (s.withRandByte r).pop = s.pop.map fun p => (p.1, p.2.withRandByte r) := by
  by_cases h : 0 < s.sp.val <;> simp [State.pop, State.withRandByte, h]

theorem memWrite_withRandByte (a : Word) (bytes : List Byte) :
    (s.withRandByte r).memWrite a bytes = (s.memWrite a bytes).map (·.withRandByte r) := by
  rw [State.memWrite, State.memWrite]
  split <;> rfl

/-! ### The instructions -/

/-- `rand_byte` replaced in the next state of an outcome. -/
def outcomeWithRandByte (r : Byte) : Host.Outcome State Fault Refusal → Host.Outcome State Fault Refusal
  | .next t => .next (t.withRandByte r)
  | .fault f => .fault f
  | .refused f => .refused f

theorem keySkip_withRandByte (i : Instr) (x : Nibble) (c : Nibble → Bool) :
    keySkip i x c (s.withRandByte r) = outcomeWithRandByte r (keySkip i x c s) := by
  rw [keySkip, keySkip, getV_withRandByte]
  cases keyIndex (s.getV x) with
  | some k => exact congrArg _ (skipIf_withRandByte s r _)
  | none => rfl

theorem exec_withRandByte {i : Instr} (hi : i.tag ≠ .rnd) :
    exec i (s.withRandByte r) = outcomeWithRandByte r (exec i s) := by
  cases i with
  | rnd => exact absurd rfl hi
  | sys | cls | jp | ldImm | addImm | ldReg | addReg | sub | shr | subn | shl | ldI | jpV0 | ldVxDt | ldDtVx | ldStVx
  | addIVx | ldFVx => rfl
  | or | and | xor => exact congrArg _ (setLogicResult_withRandByte s r _ _)
  | seImm | sneImm | seReg | sneReg => exact congrArg _ (skipIf_withRandByte s r _)
  | skp x => exact keySkip_withRandByte s r _ x s.keyDown
  | sknp x => exact keySkip_withRandByte s r _ x (fun k => !s.keyDown k)
  | ret ign =>
    rw [exec, exec, execRet, execRet, pop_withRandByte]
    cases s.pop <;> rfl
  | call nnn =>
    rw [exec, exec, execCall, execCall, withRandByte_pc, push_withRandByte]
    cases s.push s.pc <;> rfl
  | drw x y n =>
    rw [exec, exec, execDrw, execDrw, withRandByte_i, memRead_withRandByte]
    cases s.memRead s.i n.toNat <;> rfl
  | ldVxK x =>
    rw [exec, exec, execLdVxK, execLdVxK, firstKey_withRandByte]
    cases s.firstKey <;> rfl
  | ldBVx x =>
    rw [exec, exec, execLdBVx, execLdBVx, withRandByte_i, getV_withRandByte, memWrite_withRandByte]
    cases s.memWrite s.i [(bcd (s.getV x)).1, (bcd (s.getV x)).2.1, (bcd (s.getV x)).2.2] <;> rfl
  | ldMemVx x =>
    rw [exec, exec, execLdMemVx, execLdMemVx, withRandByte_i, regBlock_withRandByte, memWrite_withRandByte]
    cases s.memWrite s.i (s.regBlock x) with
    | some t => exact congrArg _ (postIncrement_withRandByte t r x)
    | none => rfl
  | ldVxMem x =>
    rw [exec, exec, execLdVxMem, execLdVxMem, withRandByte_i, memRead_withRandByte]
    cases s.memRead s.i (x.toNat + 1) with
    | some bytes =>
      refine congrArg Host.Outcome.next ?_
      rw [setRegs_withRandByte, postIncrement_withRandByte]
    | none => rfl

end

/-- Settles O29: an instruction other than RND commutes with a change of `rand_byte`. -/
theorem randByteReadByRndOnly : Obligations.RandByteReadByRndOnly := by
  intro i s t r hi h
  calc exec i (s.withRandByte r)
    _ = outcomeWithRandByte r (exec i s) := exec_withRandByte s r hi
    _ = .next (t.withRandByte r) := by rw [h, outcomeWithRandByte]

end Sys2Proof.Machine
end

section
/-! PROOFS. The ALU in integer arithmetic (spec/41 R110, R112), and the register loads and ALU instructions
(R114 to R129): the results come from the ALU, the frames from the two ways to write a result back. -/

namespace Sys2Proof.Machine

/-! ### The ALU -/

section
variable (a b : Byte)

theorem toNat_alu_add : (alu .add a b).1.toNat = (a.toNat + b.toNat) % 256 := BitVec.toNat_add a b

theorem toNat_alu_sub : (alu .sub a b).1.toNat = (256 + a.toNat - b.toNat) % 256 := by
  rw [alu, BitVec.toNat_sub]
  omega

theorem toNat_alu_shr : (alu .shr a b).1.toNat = b.toNat / 2 := by
  rw [alu, BitVec.toNat_ushiftRight, Nat.shiftRight_eq_div_pow]

theorem toNat_alu_shl : (alu .shl a b).1.toNat = 2 * b.toNat % 256 := by
  rw [alu, BitVec.toNat_shiftLeft, Nat.shiftLeft_eq, Nat.mul_comm]

/-- SUBN is SUB with its operands exchanged, flag included. -/
theorem alu_subn : alu .subn a b = alu .sub b a := rfl

theorem flag_alu_add : (alu .add a b).2.toNat = if 255 < a.toNat + b.toNat then 1 else 0 := Bool.cond_decide _ 1 0

theorem flag_alu_sub : (alu .sub a b).2.toNat = if b.toNat ≤ a.toNat then 1 else 0 := Bool.cond_decide _ 1 0

theorem flag_alu_shr : (alu .shr a b).2.toNat = b.toNat % 2 := by
  rw [alu, BitVec.getLsbD, Nat.toNat_testBit]
  omega

theorem flag_alu_shl : (alu .shl a b).2.toNat = b.toNat / 128 := by
  rw [alu, BitVec.getLsbD, Nat.toNat_testBit]
  omega

/-- The residue that SUB leaves, in the integers. -/
theorem alu_sub_residue : ((alu .sub a b).1.toNat : Int) = ((a.toNat : Int) - b.toNat) % 256 := by
  rw [toNat_alu_sub]
  omega

end

/-- Settles O31: results and flags of each operation; SUBN is SUB the other way round. -/
theorem aluOperations : Obligations.AluOperations := by
  intro a b
  have shrFlag : (alu .shr a b).2 = true ↔ b.toNat % 2 = 1 := by rw [← flag_alu_shr a b, Bool.toNat_eq_one]
  have shlFlag : (alu .shl a b).2 = true ↔ 128 ≤ b.toNat := by
    rw [← Bool.toNat_eq_one, flag_alu_shl]
    omega
  exact ⟨rfl, rfl, fun _ _ => ⟨BitVec.getLsbD_or, BitVec.getLsbD_and, BitVec.getLsbD_xor⟩, rfl, rfl, rfl,
    toNat_alu_add a b, carryOut_iff a b, alu_sub_residue a b, noBorrow_iff a b, toNat_alu_shr a b, shrFlag,
    alu_sub_residue b a, noBorrow_iff b a, toNat_alu_shl a b, shlFlag⟩

/-- Settles O32: the digits by their quotients and remainders, and what follows for a value below 256. -/
theorem bcdDigits : Obligations.BcdDigits := by
  intro a
  obtain ⟨hundreds, tens, units⟩ := toNat_bcd a
  refine ⟨hundreds, tens, units, ?_⟩
  rw [hundreds, tens, units]
  omega

/-! ### Writing a result back (R114) -/

/-- A state with other general registers and nothing else changed. -/
theorem changesOnlyV_of_eq {s t : State} (h : t = { s with v := t.v }) : changesOnlyV s t :=
  ⟨h, fun _ => by rw [h]⟩

/-- The byte of a flag has the flag's value. -/
theorem toNat_flagByte (f : Bool) : (if f then 1#8 else 0#8).toNat = f.toNat := by cases f <;> rfl

section
variable (s : State) (x : Nibble)

/-- `V[x]` alone is written, with a byte of value `r`. -/
theorem setV_result {b : Byte} {r : Nat} (hr : b.toNat = r) :
    changesOnlyV s (s.setV x b) ∧ registerBecomes s (s.setV x b) x r := by
  refine ⟨changesOnlyV_of_eq (setV_eq s x b), ?_, fun q hq => ?_⟩
  · rw [getV_setV, if_pos rfl, hr]
  · rw [getV_setV, if_neg hq]

/-- `V[x]` is written with a byte of value `r`, and VF, last, with a flag of value `f`. -/
theorem setResultAndFlag_result {rf : Byte × Bool} {r f : Nat} (hr : rf.1.toNat = r) (hf : rf.2.toNat = f) :
    changesOnlyV s (s.setResultAndFlag x rf) ∧ resultThenFlag s (s.setResultAndFlag x rf) x r f := by
  refine ⟨changesOnlyV_of_eq (setResultAndFlag_eq s x rf), ?_, fun hx => ?_, fun q hq hq15 => ?_⟩
  · rw [getV_setResultAndFlag, if_pos rfl, toNat_flagByte, hf]
  · rw [getV_setResultAndFlag, if_neg hx, if_pos rfl, hr]
  · rw [getV_setResultAndFlag, if_neg hq15, if_neg hq]

/-- The register that a shift reads (R123, R125). -/
theorem shiftSource_eq (y : Nibble) : s.shiftSource x y = s.getV (if s.variant = .chip8 then y else x) := by
  rw [State.shiftSource]
  cases s.variant <;> rfl

end

/-- On CHIP8 a logic result is written back with the flag 0. -/
theorem setLogicResult_result_of_chip8 {s : State} (h : s.variant = .chip8) (x : Nibble) (r : Byte) :
    changesOnlyV s (s.setLogicResult x r) ∧ resultThenFlag s (s.setLogicResult x r) x r.toNat 0 := by
  have write : s.setLogicResult x r = s.setResultAndFlag x (r, false) := by
    rw [State.setLogicResult, h]
    rfl
  rw [write]
  exact setResultAndFlag_result s x rfl rfl

/-- On SUPERCHIP a logic result is written back without a flag. -/
theorem setLogicResult_result_of_superchip {s : State} (h : s.variant = .superchip) (x : Nibble) (r : Byte) :
    changesOnlyV s (s.setLogicResult x r) ∧ registerBecomes s (s.setLogicResult x r) x r.toNat := by
  have write : s.setLogicResult x r = s.setV x r := by rw [State.setLogicResult, h]
  rw [write]
  exact setV_result s x rfl

/-! ### The instructions -/

/-- Settles O42: both loads write one register. -/
theorem loadsRegister : Obligations.LoadsRegister := fun s x y nn =>
  ⟨decodeOfEncode (.ldImm x nn), decodeOfEncode (.ldReg x y), ⟨_, rfl, setV_result s x rfl⟩,
    ⟨_, rfl, setV_result s x rfl⟩⟩

/-- Settles O43: the ALU's sum, its flag dropped. -/
theorem addImmediateNoFlag : Obligations.AddImmediateNoFlag := fun s x nn =>
  ⟨decodeOfEncode (.addImm x nn), _, rfl, setV_result s x (toNat_alu_add (s.getV x) nn)⟩

/-- Settles O44: one way to write a logic result back for each variant, the same for the three operations. -/
theorem logicOperations : Obligations.LogicOperations := by
  refine fun s x y => ⟨decodeOfEncode (.or x y), decodeOfEncode (.and x y), decodeOfEncode (.xor x y),
    fun h => ?_, fun h => ?_⟩
  · have result := setLogicResult_result_of_chip8 h x
    exact ⟨⟨_, rfl, result _⟩, ⟨_, rfl, result _⟩, ⟨_, rfl, result _⟩⟩
  · have result := setLogicResult_result_of_superchip h x
    exact ⟨⟨_, rfl, result _⟩, ⟨_, rfl, result _⟩, ⟨_, rfl, result _⟩⟩

/-- Settles O45: the ALU's sum and carry. -/
theorem addRegistersCarry : Obligations.AddRegistersCarry := fun s x y =>
  ⟨decodeOfEncode (.addReg x y), _, rfl,
    setResultAndFlag_result s x (toNat_alu_add (s.getV x) (s.getV y)) (flag_alu_add (s.getV x) (s.getV y))⟩

/-- Settles O46: the ALU's difference and the absence of a borrow, with the operands in either order. -/
theorem subtractionsNoBorrow : Obligations.SubtractionsNoBorrow := by
  refine fun s x y => ⟨decodeOfEncode (.sub x y), decodeOfEncode (.subn x y), ⟨_, rfl, ?_⟩, ⟨_, rfl, ?_⟩⟩
  · exact setResultAndFlag_result s x (toNat_alu_sub _ _) (flag_alu_sub _ _)
  · rw [alu_subn]
    exact setResultAndFlag_result s x (toNat_alu_sub _ _) (flag_alu_sub _ _)

/-- Settles O47: the ALU's shifts of the register that the variant names. -/
theorem shiftsByOne : Obligations.ShiftsByOne := by
  refine fun s x y src => ⟨decodeOfEncode (.shr x y), decodeOfEncode (.shl x y), fun hsrc => ?_⟩
  have source : s.shiftSource x y = s.getV src := by rw [shiftSource_eq, hsrc]
  refine ⟨⟨_, rfl, ?_⟩, ⟨_, rfl, ?_⟩⟩
  · rw [source]
    exact setResultAndFlag_result s x (toNat_alu_shr _ _) (flag_alu_shr _ _)
  · rw [source]
    exact setResultAndFlag_result s x (toNat_alu_shl _ _) (flag_alu_shl _ _)

/-- Settles O48: the ALU's AND of the cycle's `rand_byte` and the mask, in one register. -/
theorem randomByteMasked : Obligations.RandomByteMasked := by
  intro s x nn
  obtain ⟨frame, -, others⟩ := setV_result s x (b := s.randByte &&& nn) rfl
  refine ⟨decodeOfEncode (.rnd x nn), s.setV x (s.randByte &&& nn), rfl, frame, fun k _ => ?_, others⟩
  rw [getV_setV, if_pos rfl, BitVec.getLsbD_and]

end Sys2Proof.Machine
end

section
/-! PROOFS. The address register and the memory instructions (spec/42 R135 to R142): on either side of its bound an
instruction is one block access at I or the fault entry, and the block accesses are known byte by byte. -/

namespace Sys2Proof.Machine

/-! ### The block that a write stores -/

section
variable {m : Memory} (hm : m.wf = true) {a : Nat} {bytes : List Byte} (fits : a + bytes.length ≤ Config.memSize)
include hm fits

theorem read_writeBytes_inside {k : Nat} (hk : k < bytes.length) :
    (m.writeBytes a bytes).read (a + k) = bytes.getD k 0#8 := by
  rw [read_writeBytes m hm a bytes fits, if_pos (by omega), Nat.add_sub_cancel_left]

theorem read_writeBytes_outside {c : Nat} (hc : c < a ∨ a + bytes.length ≤ c) :
    (m.writeBytes a bytes).read c = m.read c := by
  rw [read_writeBytes m hm a bytes fits, if_neg (by omega)]

end

/-! ### Writes of I -/

theorem changesOnlyI_setI (s : State) (w : Word) : changesOnlyI s (s.setI w) := ⟨rfl, fun _ => rfl⟩

/-- The sum of I and a register, in 16 bits. -/
theorem toNat_add_setWidth_byte (w : Word) (b : Byte) :
    (w + b.setWidth 16).toNat = (w.toNat + b.toNat) % 65536 := by
  rw [BitVec.toNat_add, BitVec.toNat_setWidth_of_le (by decide)]

/-- Settles O49: both instructions write I alone. -/
theorem addressRegisterWrites : Obligations.AddressRegisterWrites := fun s x nnn =>
  ⟨decodeOfEncode (.ldI nnn), decodeOfEncode (.addIVx x),
    ⟨_, rfl, changesOnlyI_setI s _, toNat_jumpTarget nnn⟩,
    ⟨_, rfl, changesOnlyI_setI s _, toNat_add_setWidth_byte s.i (s.getV x)⟩⟩

/-! The post-increment of I (R141, R142) reads the variant and I only, so a block access does not matter to it. -/

theorem postIncrement_eq_of_same {s t : State} (hv : t.variant = s.variant) (hi : t.i = s.i) (x : Nibble) :
    t.postIncrement x = { t with i := (s.postIncrement x).i } := by
  rw [postIncrement_eq, postIncrement_i, postIncrement_i, hv, hi]

theorem postIncrement_i_of_variant (s : State) (x : Nibble) :
    (s.variant = .chip8 → (s.postIncrement x).i.toNat = (s.i.toNat + x.toNat + 1) % 65536) ∧
    (s.variant = .superchip → (s.postIncrement x).i = s.i) := by
  rw [postIncrement_i]
  refine ⟨fun h => ?_, fun h => ?_⟩
  · rw [if_pos h]
    simp
  · rw [if_neg (by simp [h])]

/-! ### LD F -/

/-- Settles O50: the one thing that LD F does is to raise Unimplemented. -/
theorem fontInstructionFaults : Obligations.FontInstructionFaults := fun _ x _ =>
  ⟨decodeOfEncode (.ldFVx x), fun hpc => congrArg _ (raise_eq_afterFault hpc _ (.ldFVx x))⟩

/-! ### The digits -/

/-- The three bytes that LD B stores (R140). -/
def bcdBytes (b : Byte) : List Byte := [(bcd b).1, (bcd b).2.1, (bcd b).2.2]

@[simp] theorem length_bcdBytes (b : Byte) : (bcdBytes b).length = 3 := rfl

theorem exec_ldBVx_of_fits {s : State} (h : s.i.toNat + 2 ≤ 4095) (x : Nibble) :
    exec (.ldBVx x) s = .next { s with mem := s.mem.writeBytes s.i.toNat (bcdBytes (s.getV x)) } := by
  rw [exec, execLdBVx, ← bcdBytes, memWrite_of_fits s (.inr (by simpa using h))]

theorem exec_ldBVx_of_gt {s : State} (h : 4095 < s.i.toNat + 2) (x : Nibble) :
    exec (.ldBVx x) s = .next (s.raise .memoryOutOfBounds (.ldBVx x)) := by
  rw [exec, execLdBVx, ← bcdBytes, memWrite_of_gt s (by simp) (by simpa using h)]

/-- Settles O51: the digits of `V[X]` read back from the block at I, or the write fails as a whole. -/
theorem bcdStoredOrFaults : Obligations.BcdStoredOrFaults := by
  refine fun s x hm => ⟨decodeOfEncode (.ldBVx x), fun h => ?_, fun a h hpc => ?_⟩
  · have fits : s.i.toNat + (bcdBytes (s.getV x)).length ≤ Config.memSize := by
      rw [length_bcdBytes, Config.memSize]
      omega
    have digit {k : Nat} (hk : k < 3) := read_writeBytes_inside hm fits hk
    obtain ⟨hundreds, tens, units⟩ := toNat_bcd (s.getV x)
    refine ⟨_, exec_ldBVx_of_fits h x, rfl, ?_, ?_, ?_, fun a ha => ?_⟩
    · exact (congrArg _ (digit (k := 0) (by decide))).trans hundreds
    · exact (congrArg _ (digit (k := 1) (by decide))).trans tens
    · exact (congrArg _ (digit (k := 2) (by decide))).trans units
    · exact read_writeBytes_outside hm fits (by rw [length_bcdBytes]; omega)
  · exact (exec_ldBVx_of_gt h x).trans (congrArg _ (raise_eq_afterFault hpc _ _))

/-! ### The register dump -/

theorem exec_ldMemVx_of_fits {s : State} {x : Nibble} (h : s.i.toNat + x.toNat ≤ 4095) :
    exec (.ldMemVx x) s = .next { s with
      mem := s.mem.writeBytes s.i.toNat (s.regBlock x), i := (s.postIncrement x).i } := by
  rw [exec, execLdMemVx, memWrite_of_fits s (.inr (by simpa using h))]
  exact congrArg Host.Outcome.next (postIncrement_eq_of_same (by rfl) (by rfl) x)

theorem exec_ldMemVx_of_gt {s : State} {x : Nibble} (h : 4095 < s.i.toNat + x.toNat) :
    exec (.ldMemVx x) s = .next (s.raise .memoryOutOfBounds (.ldMemVx x)) := by
  rw [exec, execLdMemVx, memWrite_of_gt s (by simp) (by simpa using h)]

/-- Settles O52: entry r of the stored block is `V[r]`, or the write fails as a whole and I is not advanced. -/
theorem registerDumpOrFaults : Obligations.RegisterDumpOrFaults := by
  refine fun s x hm => ⟨decodeOfEncode (.ldMemVx x), fun h => ?_, fun a h hpc => ?_⟩
  · have fits : s.i.toNat + (s.regBlock x).length ≤ Config.memSize := by
      rw [length_regBlock, Config.memSize]
      omega
    refine ⟨_, exec_ldMemVx_of_fits h, rfl, fun r hr => ?_, fun a ha => ?_, postIncrement_i_of_variant s x⟩
    · calc (s.mem.writeBytes s.i.toNat (s.regBlock x)).read (s.i.toNat + r.toNat)
        _ = (s.regBlock x).getD r.toNat 0#8 := read_writeBytes_inside hm fits (by rw [length_regBlock]; omega)
        _ = s.getV r := by rw [getD_regBlock s x _ hr, BitVec.ofNat_toNat, BitVec.setWidth_eq]
    · exact read_writeBytes_outside hm fits (by rw [length_regBlock]; omega)
  · exact (exec_ldMemVx_of_gt h).trans (congrArg _ (raise_eq_afterFault hpc _ _))

/-! ### The register load -/

theorem exec_ldVxMem_of_fits {s : State} {x : Nibble} (h : s.i.toNat + x.toNat ≤ 4095) :
    exec (.ldVxMem x) s = .next { s with
      v := (s.setRegs 0 (s.mem.readBytes s.i.toNat (x.toNat + 1))).v, i := (s.postIncrement x).i } := by
  rw [exec, execLdVxMem, memRead_of_fits s (.inr h)]
  refine congrArg Host.Outcome.next ?_
  rw [postIncrement_eq_of_same (setRegs_variant s _ _) (setRegs_i s _ _), setRegs_eq]

theorem exec_ldVxMem_of_gt {s : State} {x : Nibble} (h : 4095 < s.i.toNat + x.toNat) :
    exec (.ldVxMem x) s = .next (s.raise .memoryOutOfBounds (.ldVxMem x)) := by
  rw [exec, execLdVxMem, memRead_of_gt s (Nat.succ_pos _) h]

/-- The registers after a load of those up to X: these from memory, the others as before (R142). -/
theorem getV_setRegs_readBytes (s : State) (x : Nibble) (a : Nat) (r : Nibble) :
    (s.setRegs 0 (s.mem.readBytes a (x.toNat + 1))).getV r =
      if r.toNat ≤ x.toNat then s.mem.read (a + r.toNat) else s.getV r := by
  have hx : x.toNat < 16 := x.isLt
  rw [getV_setRegs s 0 _ (by rw [length_readBytes]; omega), length_readBytes]
  by_cases hr : r.toNat ≤ x.toNat
  · rw [if_pos (by omega), if_pos hr, Nat.sub_zero, getD_readBytes s.mem a _ _ (by omega)]
  · rw [if_neg (by omega), if_neg hr]

/-- Settles O53: the block read at I goes to the registers up to X, or the read fails and nothing is loaded. -/
theorem registerLoadOrFaults : Obligations.RegisterLoadOrFaults := by
  refine fun s x => ⟨decodeOfEncode (.ldVxMem x), fun h => ?_, fun a h hpc => ?_⟩
  · exact ⟨_, exec_ldVxMem_of_fits h, rfl, fun _ => rfl, getV_setRegs_readBytes s x s.i.toNat,
      postIncrement_i_of_variant s x⟩
  · exact (exec_ldVxMem_of_gt h).trans (congrArg _ (raise_eq_afterFault hpc _ _))

end Sys2Proof.Machine
end

section
/-! PROOFS. The sprite collision detector and the display instructions (spec/43 R151 to R154): every loop of `Composite`
draws a mask of pixels, and turns that draw disjoint masks draw their union. -/

namespace Sys2Proof.Machine

/-! ### Drawing a mask -/

/-- From `a` to `b` exactly the pixels of the grid in `mask` were inverted, and the flag is set if it was before or if one
of them was 1 in `a`. -/
structure Draws (mask : Nat → Nat → Bool) (a b : Framebuffer × Bool) : Prop where
  pixel : ∀ qx qy, qx < 64 → qy < 32 → b.1.pixel qx qy = (a.1.pixel qx qy ^^ mask qx qy)
  collision : b.2 = true ↔
    a.2 = true ∨ ∃ qx qy, qx < 64 ∧ qy < 32 ∧ mask qx qy = true ∧ a.1.pixel qx qy = true

theorem draws_empty {mask : Nat → Nat → Bool} (h : ∀ qx qy, mask qx qy = false) (acc : Framebuffer × Bool) :
    Draws mask acc acc where
  pixel := by simp [h]
  collision := by simp [h]

/-- Where the masks are disjoint, the second finds its pixels as they were before the first, so the two together draw the
union. -/
theorem Draws.union {m n mask : Nat → Nat → Bool} {a b c : Framebuffer × Bool} (first : Draws m a b)
    (second : Draws n b c) (disjoint : ∀ qx qy, n qx qy = true → m qx qy = false)
    (hmask : ∀ qx qy, mask qx qy = (m qx qy || n qx qy)) : Draws mask a c := by
  have untouched {qx qy : Nat} (hx : qx < 64) (hy : qy < 32) (hn : n qx qy = true) :
      b.1.pixel qx qy = a.1.pixel qx qy := by
    rw [first.pixel qx qy hx hy, disjoint qx qy hn, Bool.xor_false]
  refine ⟨fun qx qy hx hy => ?_, ?_⟩
  · rw [second.pixel qx qy hx hy, hmask]
    cases hn : n qx qy with
    | true => rw [untouched hx hy hn, disjoint qx qy hn, Bool.false_or]
    | false => rw [first.pixel qx qy hx hy, Bool.or_false, Bool.xor_false]
  · rw [second.collision, first.collision]
    constructor
    · rintro ((ha | ⟨qx, qy, hx, hy, hm, hp⟩) | ⟨qx, qy, hx, hy, hn, hp⟩)
      · exact .inl ha
      · exact .inr ⟨qx, qy, hx, hy, by rw [hmask, hm, Bool.true_or], hp⟩
      · exact .inr ⟨qx, qy, hx, hy, by rw [hmask, hn, Bool.or_true], untouched hx hy hn ▸ hp⟩
    · rintro (ha | ⟨qx, qy, hx, hy, hmn, hp⟩)
      · exact .inl (.inl ha)
      · rw [hmask, Bool.or_eq_true] at hmn
        rcases hmn with hm | hn
        · exact .inl (.inr ⟨qx, qy, hx, hy, hm, hp⟩)
        · exact .inr ⟨qx, qy, hx, hy, hn, (untouched hx hy hn).trans hp⟩

/-! ### The loops of `Composite` -/

/-- The pixel of one sprite bit, if that bit is 1. -/
def bitMask (byte : Byte) (px py k qx qy : Nat) : Bool := decide (qx = px ∧ qy = py) && byte.getLsbD (7 - k)

/-- The pixels of the leftmost `n` sprite bits of a row. -/
def rowMask (byte : Byte) (x0 py n qx qy : Nat) : Bool :=
  decide (x0 ≤ qx ∧ qx < x0 + n ∧ qy = py) && byte.getLsbD (7 - (qx - x0))

/-- The pixels of a sprite whose first row is row `y`, which need not be the value of a byte. -/
def rowsMask (x0 y : Nat) (rows : List Byte) (qx qy : Nat) : Bool :=
  decide (x0 ≤ qx ∧ qx < x0 + 8 ∧ y ≤ qy) && (rows.getD (qy - y) 0#8).getLsbD (7 - (qx - x0))

theorem rowsMask_toNat (x0 y0 : Byte) (rows : List Byte) :
    rowsMask x0.toNat y0.toNat rows = spriteBit x0 y0 rows := rfl

theorem bitMask_eq_true {byte : Byte} {px py k qx qy : Nat} :
    bitMask byte px py k qx qy = true ↔ (qx = px ∧ qy = py) ∧ byte.getLsbD (7 - k) = true := by
  rw [bitMask, Bool.and_eq_true, decide_eq_true_eq]

theorem compositeBit_draws (byte : Byte) (px py k : Nat) (acc : Framebuffer × Bool) :
    Draws (bitMask byte px py k) acc (compositeBit byte px py k acc) where
  pixel qx qy hx hy := by
    rw [pixel_compositeBit]
    congr 1
    rw [Bool.eq_iff_iff, bitMask_eq_true, decide_eq_true_eq]
    constructor
    · rintro ⟨hbit, -, -, hq⟩
      exact ⟨hq, hbit⟩
    · rintro ⟨⟨rfl, rfl⟩, hbit⟩
      exact ⟨hbit, by omega, by omega, rfl, rfl⟩
  collision := by
    rw [collision_compositeBit, Bool.or_eq_true, Bool.and_eq_true, decide_eq_true_eq]
    refine or_congr_right ⟨?_, ?_⟩
    · rintro ⟨⟨hbit, hx, hy⟩, hp⟩
      exact ⟨px, py, by omega, by omega, bitMask_eq_true.2 ⟨⟨rfl, rfl⟩, hbit⟩, hp⟩
    · rintro ⟨qx, qy, hx, hy, hm, hp⟩
      obtain ⟨⟨rfl, rfl⟩, hbit⟩ := bitMask_eq_true.1 hm
      exact ⟨⟨hbit, by omega, by omega⟩, hp⟩

theorem rowMask_succ (byte : Byte) (x0 py n qx qy : Nat) :
    rowMask byte x0 py (n + 1) qx qy = (rowMask byte x0 py n qx qy || bitMask byte (x0 + n) py n qx qy) := by
  by_cases h : qx = x0 + n
  · subst h
    simp [rowMask, bitMask]
  · have bound : qx < x0 + (n + 1) ↔ qx < x0 + n := by omega
    simp [rowMask, bitMask, h, bound]

theorem foldl_compositeBit_draws (byte : Byte) (x0 py n : Nat) (acc : Framebuffer × Bool) :
    Draws (rowMask byte x0 py n) acc
      ((List.range n).foldl (fun acc k => compositeBit byte (x0 + k) py k acc) acc) := by
  induction n with
  | zero => exact draws_empty (by simp [rowMask]; omega) acc
  | succ n ih =>
    rw [List.range_succ, List.foldl_append]
    refine ih.union (compositeBit_draws byte (x0 + n) py n _) (fun qx qy h => ?_) (rowMask_succ byte x0 py n)
    obtain ⟨⟨rfl, rfl⟩, -⟩ := bitMask_eq_true.1 h
    simp [rowMask]

theorem compositeRow_draws (byte : Byte) (x0 py : Nat) (acc : Framebuffer × Bool) :
    Draws (rowMask byte x0 py 8) acc (compositeRow byte x0 py acc) := foldl_compositeBit_draws byte x0 py 8 acc

theorem rowsMask_cons (byte : Byte) (rest : List Byte) (x0 y qx qy : Nat) :
    rowsMask x0 y (byte :: rest) qx qy = (rowMask byte x0 y 8 qx qy || rowsMask x0 (y + 1) rest qx qy) := by
  rcases lt_trichotomy qy y with h | rfl | h
  · have below : ¬y ≤ qy ∧ ¬y + 1 ≤ qy := by omega
    simp [rowsMask, rowMask, below, h.ne]
  · simp [rowsMask, rowMask]
  · obtain ⟨j, rfl⟩ : ∃ j, qy = y + 1 + j := ⟨qy - (y + 1), by omega⟩
    have shift : y + 1 + j - y = j + 1 := by omega
    have other : y + 1 + j ≠ y := by omega
    have inside : y ≤ y + 1 + j := by omega
    simp [rowsMask, rowMask, shift, other, inside]

theorem compositeRows_draws (x0 y : Nat) (rows : List Byte) (acc : Framebuffer × Bool) :
    Draws (rowsMask x0 y rows) acc (compositeRows x0 y rows acc) := by
  induction rows generalizing y acc with
  | nil => exact draws_empty (by simp [rowsMask]) acc
  | cons byte rest ih =>
    refine (compositeRow_draws byte x0 y acc).union (ih (y + 1) _) (fun qx qy h => ?_) (rowsMask_cons byte rest x0 y)
    simp [rowsMask] at h
    simp [rowMask]
    omega

theorem composite_draws (fb : Framebuffer) (x0 y0 : Byte) (rows : List Byte) :
    Draws (spriteBit x0 y0 rows) (fb, false) (composite fb x0 y0 rows) :=
  rowsMask_toNat x0 y0 rows ▸ compositeRows_draws x0.toNat y0.toNat rows (fb, false)

/-- The collision flag of a draw that starts with the flag clear. -/
theorem composite_collision (fb : Framebuffer) (x0 y0 : Byte) (rows : List Byte) :
    (composite fb x0 y0 rows).2 = true ↔
      ∃ px py : Nat, px < 64 ∧ py < 32 ∧ spriteBit x0 y0 rows px py = true ∧ fb.pixel px py = true := by
  simpa using (composite_draws fb x0 y0 rows).collision

/-- Settles O34: `Composite` draws the mask of the sprite's bits. -/
theorem compositePixelByPixel : Obligations.CompositePixelByPixel := fun fb x0 y0 rows =>
  ⟨(composite_draws fb x0 y0 rows).pixel, composite_collision fb x0 y0 rows⟩

/-! ### Drawing twice (R154) -/

theorem composite_composite (fb : Framebuffer) (x0 y0 : Byte) (rows : List Byte) :
    (composite (composite fb x0 y0 rows).1 x0 y0 rows).1 = fb := by
  refine framebuffer_ext _ _ fun px py hx hy => ?_
  rw [(composite_draws _ x0 y0 rows).pixel px py hx hy, (composite_draws fb x0 y0 rows).pixel px py hx hy,
    Bool.xor_assoc, Bool.xor_self, Bool.xor_false]

/-- On a blank framebuffer a draw sets the pixels of the sprite's bits. -/
theorem pixel_composite_clear (x0 y0 : Byte) (rows : List Byte) {px py : Nat} (hx : px < 64) (hy : py < 32) :
    (composite Framebuffer.clear x0 y0 rows).1.pixel px py = spriteBit x0 y0 rows px py := by
  rw [(composite_draws Framebuffer.clear x0 y0 rows).pixel px py hx hy, pixel_clear, Bool.false_xor]

/-- Settles O35: inverting the same pixels twice; what the first draw set on a blank framebuffer is the sprite's bits, so
the second draw collides with each of them. -/
theorem drawingTwiceRestores : Obligations.DrawingTwiceRestores := by
  refine fun fb x0 y0 rows => ⟨composite_composite fb x0 y0 rows, ?_, ?_⟩
  · rw [← Bool.not_eq_true, composite_collision]
    simp
  · rw [composite_collision]
    refine exists_congr fun px => exists_congr fun py => and_congr_right fun hx => and_congr_right fun hy => ?_
    rw [pixel_composite_clear x0 y0 rows hx hy, and_self]

/-! ### CLS and DRW -/

/-- Settles O54: the one thing that CLS does is to write the blank framebuffer. -/
theorem clsClearsScreen : Obligations.ClsClearsScreen := fun _ ign =>
  ⟨decodeOfEncode (.cls ign), _, rfl, rfl, fun _ => rfl, fun x y _ _ => pixel_clear x y⟩

/-- The state after a draw that does not fault (R153). -/
def drawn (s : State) (x y : Nibble) (rows : List Byte) : State :=
  (s.setFb (composite s.fb (s.getV x) (s.getV y) rows).1).setVF (composite s.fb (s.getV x) (s.getV y) rows).2

/-- VF is written last, so it holds the flag whatever the draw read. -/
theorem getV_drawn (s : State) (x y : Nibble) (rows : List Byte) (q : Nibble) :
    (drawn s x y rows).getV q =
      if q = 0xF#4 then (if (composite s.fb (s.getV x) (s.getV y) rows).2 then 1#8 else 0#8) else s.getV q :=
  getV_setVF _ q _

theorem exec_drw_of_fits {s : State} {n : Nibble} (h : n.toNat = 0 ∨ s.i.toNat + n.toNat - 1 ≤ 4095) (x y : Nibble) :
    exec (.drw x y n) s = .next (drawn s x y (s.mem.readBytes s.i.toNat n.toNat)) := by
  rw [exec, execDrw, memRead_of_fits s h]
  rfl

theorem exec_drw_of_gt {s : State} {n : Nibble} (h0 : 0 < n.toNat) (h : 4095 < s.i.toNat + n.toNat - 1)
    (x y : Nibble) : exec (.drw x y n) s = .next (s.raise .memoryOutOfBounds (.drw x y n)) := by
  rw [exec, execDrw, memRead_of_gt s h0 h]

theorem flagByte_eq_zero_or_one (f : Bool) :
    (if f then 1#8 else 0#8) = 0#8 ∨ (if f then 1#8 else 0#8) = 1#8 := by cases f <;> simp

theorem flagByte_eq_one (f : Bool) : (if f then 1#8 else 0#8) = 1#8 ↔ f = true := by cases f <;> simp

/-- Settles O55: the rows read at I are drawn and VF takes the flag, or the read fails and nothing is drawn. -/
theorem spriteDrawOrFaults : Obligations.SpriteDrawOrFaults := by
  refine fun s x y n => ⟨decodeOfEncode (.drw x y n), fun h => ?_, fun a h0 h hpc => ?_⟩
  · have pixels := (composite_draws s.fb (s.getV x) (s.getV y) (s.mem.readBytes s.i.toNat n.toNat)).pixel
    refine ⟨_, _, exec_drw_of_fits h x y, length_readBytes .., fun k => getD_readBytes s.mem s.i.toNat _ k, rfl,
      fun _ => rfl, pixels, ?_, ?_, fun q hq => ?_⟩
    · rw [getV_drawn, if_pos rfl]
      exact flagByte_eq_zero_or_one _
    · rw [getV_drawn, if_pos rfl, flagByte_eq_one, composite_collision]
    · rw [getV_drawn, if_neg hq]
  · exact (exec_drw_of_gt h0 h x y).trans (congrArg _ (raise_eq_afterFault hpc _ _))

end Sys2Proof.Machine
end

section
/-! PROOFS. The timer and keypad instructions (spec/44 R165 to R171): a timer's value after the tick of its cycle, the key
skips on either side of the bound on the key index, and the wait with no key down and with a least key. -/

namespace Sys2Proof.Machine

/-! ### The timers -/

/-- The tick of one timer in arithmetic, where natural subtraction stops at 0 (60 R194). -/
theorem toNat_tickDown (due : Bool) (b : Byte) : (tickDown due b).toNat = if due then b.toNat - 1 else b.toNat := by
  rw [tickDown]
  rcases eq_or_ne b 0#8 with rfl | hb
  · cases due <;> rfl
  · rw [if_neg hb]
    cases due with
    | false => rfl
    | true => exact BitVec.toNat_sub_of_le (by bv_omega)

/-- Settles O56: the value read is the ticked one because the tick comes before execution, and nothing ticks after the
write. -/
theorem timerMoves : Obligations.TimerMoves := by
  refine fun s x => ⟨decodeOfEncode (.ldVxDt x), decodeOfEncode (.ldDtVx x), decodeOfEncode (.ldStVx x),
    ⟨_, rfl, setV_result s x rfl⟩, ⟨_, rfl, rfl, fun _ => rfl⟩, ⟨_, rfl, rfl, fun _ => rfl⟩,
    fun hs => ⟨fun hf => ?_, fun hf => ?_, fun hf => ?_⟩⟩
  · obtain ⟨-, read, -⟩ := setV_result s.tickTimers.advancePc x (toNat_tickDown s.tickDue s.dt)
    exact ⟨_, cycle_of_fetch hs hf (decodeOfEncode (.ldVxDt x)), read⟩
  · exact ⟨_, cycle_of_fetch hs hf (decodeOfEncode (.ldDtVx x)), rfl⟩
  · exact ⟨_, cycle_of_fetch hs hf (decodeOfEncode (.ldStVx x)), rfl⟩

/-! ### SKP and SKNP -/

/-- Up to 15, the condition is asked of the key that V[x] numbers. -/
theorem keySkip_of_le {s : State} {x : Nibble} (h : (s.getV x).toNat ≤ 15) :
    ∃ k : Nibble, k.toNat = (s.getV x).toNat ∧ ∀ i c, keySkip i x c s = .next (s.skipIf (c k)) := by
  rcases keyIndex_cases (s.getV x) with ⟨above, -⟩ | ⟨-, k, hk, number⟩
  · omega
  · exact ⟨k, number, fun i c => by rw [keySkip, hk]⟩

theorem keySkip_of_gt {s : State} {x : Nibble} (h : 15 < (s.getV x).toNat) (i : Instr) (c : Nibble → Bool) :
    keySkip i x c s = .next (s.raise .badKeyIndex i) := by
  rcases keyIndex_cases (s.getV x) with ⟨-, refused⟩ | ⟨low, -⟩
  · rw [keySkip, refused]
  · omega

/-- Settles O57: both skips are the one key skip, with opposite conditions. -/
theorem keySkipsOrFault : Obligations.KeySkipsOrFault := by
  refine fun s x => ⟨decodeOfEncode (.skp x), decodeOfEncode (.sknp x), fun h => ?_, fun a h hpc => ?_⟩
  · obtain ⟨k, number, run⟩ := keySkip_of_le h
    have down : s.keyDown k = s.keys.getLsbD (s.getV x).toNat := by rw [State.keyDown, number]
    rw [← down, exec_skp, exec_sknp]
    refine ⟨⟨_, run .., changesOnlyPc_skipIf s _, toNat_pc_skipIf s _⟩, ⟨_, run .., changesOnlyPc_skipIf s _, ?_⟩⟩
    rw [toNat_pc_skipIf]
    cases s.keyDown k <;> rfl
  · exact ⟨(keySkip_of_gt h ..).trans (congrArg _ (raise_eq_afterFault hpc _ _)),
      (keySkip_of_gt h ..).trans (congrArg _ (raise_eq_afterFault hpc _ _))⟩

/-! ### LD Vx, K -/

theorem firstKey_of_keys_zero {s : State} (h : s.keys = 0#16) : s.firstKey = none := by
  rcases firstKey_cases s with ⟨nothing, -⟩ | ⟨k, -, -, down, -⟩
  · exact nothing
  · simp [h] at down

/-- There is only one least key that is down. -/
theorem firstKey_of_least {s : State} {k : Nat} (hk : k < 16) (down : s.keys.getLsbD k = true)
    (least : ∀ j, j < k → s.keys.getLsbD j = false) : s.firstKey = some k := by
  rcases firstKey_cases s with ⟨-, up⟩ | ⟨j, found, -, jdown, jleast⟩
  · simp [up k hk] at down
  · rcases lt_trichotomy j k with below | rfl | above
    · simp [least j below] at jdown
    · exact found
    · simp [jleast k above] at down

theorem exec_ldVxK_of_keys_zero {s : State} (h : s.keys = 0#16) (x : Nibble) :
    exec (.ldVxK x) s = .next (s.setPc (s.pc - 2#16)) := by
  rw [exec, execLdVxK, firstKey_of_keys_zero h]

theorem exec_ldVxK_of_firstKey {s : State} {k : Nat} (h : s.firstKey = some k) (x : Nibble) :
    exec (.ldVxK x) s = .next (s.setV x (BitVec.ofNat 8 k)) := by
  rw [exec, execLdVxK, h]

/-- Settles O58: with no key down PC goes back over the advance of its own fetch; otherwise the scan finds the least
key. -/
theorem waitForKey : Obligations.WaitForKey := by
  refine fun s x => ⟨decodeOfEncode (.ldVxK x), fun a h hpc => ?_, fun k hk down least => ?_⟩
  · refine ⟨_, exec_ldVxK_of_keys_zero h x, changesOnlyPc_setPc s _, ?_⟩
    rw [setPc_pc, hpc, BitVec.add_sub_cancel]
  · have number : (BitVec.ofNat 8 k).toNat = k := Nat.mod_eq_of_lt (by omega)
    exact ⟨_, exec_ldVxK_of_firstKey (firstKey_of_least hk down least) x, setV_result s x number⟩

end Sys2Proof.Machine
end

section
/-! PROOFS. Faults and the timer tick (spec/60 R180 to R196): each instruction held to its row of the fault table, the
cycles that end faulted, and the timers at the end of a cycle. -/

namespace Sys2Proof.Machine

/-! ### The fault table, instruction by instruction -/

/-- STATUS and the fault record of `t` are those of `s`. -/
def keepsFaultRecord (s t : State) : Prop :=
  t.status = s.status ∧ t.faultKind = s.faultKind ∧ t.faultOpcode = s.faultOpcode ∧ t.faultPc = s.faultPc

theorem keepsFaultRecord_skipIf (s : State) (c : Bool) : keepsFaultRecord s (s.skipIf c) := by
  rw [skipIf_eq]
  exact ⟨rfl, rfl, rfl, rfl⟩

theorem keepsFaultRecord_setLogicResult (s : State) (x : Nibble) (r : Byte) :
    keepsFaultRecord s (s.setLogicResult x r) := by
  rw [setLogicResult_eq]
  exact ⟨rfl, rfl, rfl, rfl⟩

/-- `FaultRule s i k`: executing `i` in `s` is what the fault table's answer `k` asks for (60 R180, R188), completion
with the fault record left alone where it answers none, and otherwise the fault entry and nothing else. -/
inductive FaultRule (s : State) (i : Instr) : FaultKind → Prop where
  | completes (t : State) (run : exec i s = .next t) (record : keepsFaultRecord s t) : FaultRule s i .none
  | faults (k : FaultKind) (hk : k ≠ .none) (run : exec i s = .next (s.raise k i)) : FaultRule s i k

/-- A row of the table with a condition: one rule where it holds, the other where it does not. -/
theorem FaultRule.ite {s : State} {i : Instr} {k : FaultKind} {c : Prop} [Decidable c] (hk : k ≠ .none)
    (fault : c → exec i s = .next (s.raise k i))
    (done : ¬ c → ∃ t, exec i s = .next t ∧ keepsFaultRecord s t) : FaultRule s i (if c then k else .none) := by
  by_cases hc : c
  · rw [if_pos hc]
    exact .faults k hk (fault hc)
  · rw [if_neg hc]
    obtain ⟨t, run, record⟩ := done hc
    exact .completes t run record

/-- The row of SKP and SKNP (R186). -/
theorem faultRule_keySkip {s : State} {i : Instr} {x : Nibble} {c : Nibble → Bool} (h : exec i s = keySkip i x c s) :
    FaultRule s i (if 15 < (s.getV x).toNat then .badKeyIndex else .none) := by
  refine .ite (by decide) (fun above => h.trans (keySkip_of_gt above i c)) fun low => ?_
  obtain ⟨k, -, run⟩ := keySkip_of_le (Nat.le_of_not_lt low)
  exact ⟨_, h.trans (run i c), keepsFaultRecord_skipIf s _⟩

/-- The wait for a key completes either way (44 R170). -/
theorem faultRule_ldVxK (s : State) (x : Nibble) : FaultRule s (.ldVxK x) .none := by
  refine .completes _ rfl ?_
  cases s.firstKey with
  | some k => exact ⟨rfl, rfl, rfl, rfl⟩
  | none => exact ⟨rfl, rfl, rfl, rfl⟩

/-- Every instruction obeys its row of the fault table. -/
theorem exec_faultRule (i : Instr) (s : State) : FaultRule s i (faultOf i s) := by
  cases i with
  | ret ign =>
    refine .ite (by decide) (exec_ret_of_empty · ign) fun used => ?_
    exact ⟨_, exec_ret_of_succ (k := ⟨s.sp.val - 1, by omega⟩) (by simp; omega) ign, rfl, rfl, rfl, rfl⟩
  | call nnn =>
    refine .ite (by decide) (exec_call_of_full · nnn) fun free => ?_
    exact ⟨_, exec_call_of_lt (by omega) nnn, rfl, rfl, rfl, rfl⟩
  | drw x y n =>
    refine .ite (by decide) (fun ⟨h0, out⟩ => exec_drw_of_gt h0 out x y) fun fits => ?_
    exact ⟨_, exec_drw_of_fits (by omega) x y, rfl, rfl, rfl, rfl⟩
  | skp x => exact faultRule_keySkip (exec_skp x s)
  | sknp x => exact faultRule_keySkip (exec_sknp x s)
  | ldFVx x => exact .faults .unimplemented (by decide) rfl
  | ldBVx x =>
    refine .ite (by decide) (exec_ldBVx_of_gt · x) fun fits => ?_
    exact ⟨_, exec_ldBVx_of_fits (Nat.le_of_not_lt fits) x, rfl, rfl, rfl, rfl⟩
  | ldMemVx x =>
    refine .ite (by decide) exec_ldMemVx_of_gt fun fits => ?_
    exact ⟨_, exec_ldMemVx_of_fits (Nat.le_of_not_lt fits), rfl, rfl, rfl, rfl⟩
  | ldVxMem x =>
    refine .ite (by decide) exec_ldVxMem_of_gt fun fits => ?_
    exact ⟨_, exec_ldVxMem_of_fits (Nat.le_of_not_lt fits), rfl, rfl, rfl, rfl⟩
  | ldVxK x => exact faultRule_ldVxK s x
  | seImm _ _ | sneImm _ _ | seReg _ _ _ | sneReg _ _ _ =>
    exact .completes _ rfl (keepsFaultRecord_skipIf s _)
  | or _ _ | and _ _ | xor _ _ => exact .completes _ rfl (keepsFaultRecord_setLogicResult s _ _)
  | sys _ | cls _ | jp _ | jpV0 _ | ldImm _ _ | addImm _ _ | ldReg _ _ | addReg _ _ | sub _ _ | shr _ _ | subn _ _
  | shl _ _ | rnd _ _ | ldI _ | addIVx _ | ldVxDt _ | ldDtVx _ | ldStVx _ =>
    exact .completes _ rfl ⟨rfl, rfl, rfl, rfl⟩

/-- Settles O18: the two rules of the table, with PC past the fetch address. -/
theorem faultConditionsExact : Obligations.FaultConditionsExact := by
  intro i s t a hpc h
  have rule := exec_faultRule i s
  generalize faultOf i s = k at rule ⊢
  cases rule with
  | completes u run record =>
    cases run.symm.trans h
    exact ⟨fun _ => record, fun hk => absurd rfl hk⟩
  | faults k hk run =>
    cases run.symm.trans h
    exact ⟨fun noFault => absurd noFault hk, fun _ => raise_eq_afterFault hpc k i⟩

/-! ### Cycles that end faulted -/

theorem cycle_of_unknown {s : State} {op : Word} (hs : s.status = .running) (hf : s.fetch = some op)
    (hd : decode op = none) : s.cycle = .next (s.tickTimers.advancePc.faultEntry .unknownOpcode op s.pc) := by
  simp [State.cycle, State.decodeExecute, hs, hf, hd]

/-- Settles O16: the cycle is the tick, the advance of PC and the fault entry. -/
theorem unknownOpcodeEntry : Obligations.UnknownOpcodeEntry := fun _ _ hs hf hd =>
  ⟨_, cycle_of_unknown hs hf hd, rfl⟩

/-- From a running core an instruction ends faulted only by its row of the table, with the fault entry alone. -/
theorem eq_afterFault_of_exec {i : Instr} {s t : State} {a : Word} (hs : s.status = .running) (hpc : s.pc = a + 2#16)
    (h : exec i s = .next t) (ht : t.status = .faulted) : t = afterFault s (faultOf i s) (encode i) a := by
  obtain ⟨completes, faults⟩ := faultConditionsExact i s t a hpc h
  refine faults fun noFault => ?_
  obtain ⟨status, -⟩ := completes noFault
  simp [status, hs] at ht

/-- Settles O17: the three phases in which a running core can fault; the opcode recorded in the last is the fetched one,
since encoding undoes decoding. -/
theorem faultsArePrecise : Obligations.FaultsArePrecise := by
  intro s t hs h ht
  rcases cycle_cases s with ⟨hst, -⟩ | ⟨-, hf, hc⟩ | ⟨op, -, hf, hd, hc⟩ | ⟨op, i, -, hf, hd, hc⟩
  · simp [hs] at hst
  · cases hc.symm.trans h
    rw [hf]
    rfl
  · cases hc.symm.trans h
    simp only [hf, hd]
    rfl
  · simp only [hf, hd]
    have entry := eq_afterFault_of_exec (s := s.tickTimers.advancePc) hs rfl (hc.symm.trans h) ht
    rwa [encodeOfDecode op i hd] at entry

/-! ### The timers at the end of a cycle -/

/-- Only LD DT moves DT from where the tick left it, and what it writes is its register. -/
theorem dt_of_exec {i : Instr} {s t : State} (h : exec i s = .next t) :
    t.dt = s.dt ∨ ∃ x, i = .ldDtVx x ∧ t.dt = s.getV x := by
  obtain ⟨-, -, -, -, -, -, -, -, dt, -⟩ := instructionWriteSets i s t h
  cases i with
  | ldDtVx x =>
    cases h
    exact .inr ⟨x, rfl, rfl⟩
  | _ => exact .inl (dt nofun)

/-- Only LD ST moves ST from where the tick left it, and what it writes is its register. -/
theorem st_of_exec {i : Instr} {s t : State} (h : exec i s = .next t) :
    t.st = s.st ∨ ∃ x, i = .ldStVx x ∧ t.st = s.getV x := by
  obtain ⟨-, -, -, -, -, -, -, -, -, st, -⟩ := instructionWriteSets i s t h
  cases i with
  | ldStVx x =>
    cases h
    exact .inr ⟨x, rfl, rfl⟩
  | _ => exact .inl (st nofun)

/-- Settles O20: a fault keeps the tick of its cycle, and an instruction keeps it unless it writes the timer. -/
theorem timersTickOncePerCycle : Obligations.TimersTickOncePerCycle := by
  intro s t hs h
  rw [← toNat_tickDown, ← toNat_tickDown]
  rcases cycle_cases s with ⟨hst, -⟩ | ⟨-, -, hc⟩ | ⟨op, -, -, -, hc⟩ | ⟨op, i, -, hf, hd, hc⟩
  · simp [hs] at hst
  · cases hc.symm.trans h
    exact ⟨.inl rfl, .inl rfl⟩
  · cases hc.symm.trans h
    exact ⟨.inl rfl, .inl rfl⟩
  · have run := hc.symm.trans h
    refine ⟨(dt_of_exec run).imp (congrArg BitVec.toNat) ?_, (st_of_exec run).imp (congrArg BitVec.toNat) ?_⟩
    · rintro ⟨x, rfl, written⟩
      exact ⟨op, x, hf, hd, written⟩
    · rintro ⟨x, rfl, written⟩
      exact ⟨op, x, hf, hd, written⟩

end Sys2Proof.Machine
end

section
/-! PROOFS. State.reset as a launch (spec/70 R210, R211; log 7). -/

namespace Sys2Proof.Machine

theorem writeBytes_nil (m : Memory) (a : Nat) : m.writeBytes a [] = m := rfl

/-- With no ROM bytes there is nothing to copy, and only the variant of the launch is left to set. -/
theorem load_nil (var : Variant) : State.load [] var = { State.reset with variant := var } := by
  rw [State.load, List.take_nil, writeBytes_nil]
  rfl

/-- Settles O8: a launch with no ROM bytes sets VARIANT alone, and CHIP8 is what State.reset has there. -/
theorem resetIsLoadOfNothing : Obligations.ResetIsLoadOfNothing :=
  calc State.reset
    _ = { State.reset with variant := .chip8 } := rfl
    _ = State.load [] .chip8 := (load_nil .chip8).symm

end Sys2Proof.Machine
end
